-- ==== Sys2Proof/Word.lean ====
section
/-! DEFINITION. The machine's word types (spec 00_scope.md R6, R9: bit 0 is the least significant bit). -/

namespace Sys2Proof

/-- A byte of the IN space. -/
abbrev Byte := BitVec 8

/-- A 16-bit little-endian field of IN, a cursor word, or a packed colour. -/
abbrev Half := BitVec 16

/-- A 32-bit host register or a 32-bit field of IN. -/
abbrev Word := BitVec 32

end Sys2Proof
end

