-- ==== Sys2Proof/Config.lean ====
section
/-! DEFINITION. The implementation parameters of 00_scope.md R7, as ONE record of plain data, and the free
functions and values that the spec leaves without any law. A machine holds its record in `State.cfg`, no step
changes it, and the claims quantify over it (R8: a model runs with any legal value of every OPEN parameter). -/

namespace Sys2Proof

/-- The six block roles of a macroblock (R161). -/
inductive Role where
  | y0 | y1 | y2 | y3 | cb | cr
  deriving DecidableEq, Repr

/-- The three channels (R161, R170). -/
inductive Channel where
  | y | cb | cr
  deriving DecidableEq, Repr

/-- OOR_POLICY (R197). -/
inductive OorPolicy where
  | drop | poison
  deriving DecidableEq, Repr

/-- A parameter that is a function of its operands (R233): the definition the spec decides, or any other one, which
is then a free function below. -/
inductive Choice where
  | spec | free
  deriving DecidableEq, Repr

/-- One code word of a DC_CODE other than the reference candidate (R104): its bits, first stream bit first, and the
delta it stands for. -/
structure DcRow where
  code : List Bool
  delta : Int
  deriving DecidableEq, Repr

/-- DC_CODE (R104 to R106): the reference candidate, whose rows are the DCY and DCC rows of the opcode table; a prefix
code written out for luma and for chroma; or any prefix code at all, one with infinitely many words included, whose
words are those of a free function (notes/assumptions/17.md). -/
inductive DcCode where
  | candidate
  | table (luma chroma : List DcRow)
  | free
  deriving DecidableEq, Repr

/-- One code word of an AC_TABLE other than R110's: its bits, run and magnitude. DESIGN CHOICE: as in R107, one sign bit
follows the code of every row of every table, with 1 for a negative level, where R7 and D12 let the parameter hold the
sign otherwise (notes/assumptions/32.md). -/
structure AcRow where
  code : List Bool
  run : Nat
  mag : Nat
  deriving DecidableEq, Repr

/-- AC_TABLE, EOB_CODE and ESC_CODE: the values of R108 to R110, whose rows are the AC rows of the opcode table, or
another prefix code. -/
inductive AcCode where
  | spec
  | table (rows : List AcRow) (eob esc : List Bool)
  deriving DecidableEq, Repr

/-- TEX_RECORD (R300). `lengthField off width unit bias start`: the record starts at `P + start`, not below 0, and its
length is `MemRead(P + off, width) * unit + bias`, when that field ends within the segment. `free`: any function of the
bytes from P to the segment end and of P. -/
inductive TexRecord where
  | lengthField (off width unit bias : Nat) (start : Int)
  | free
  deriving DecidableEq, Repr

/-- How often an item of several Consumes past the region end is reported. `perConsume` is R145's rule, one report for each
Consume that takes a bit past the end, and the value at reset. `perItem` is an option of the model that no machine at
reset has: one increment for the item, the other reading of R335, point 3. DESIGN CHOICE: that the option exists
(notes/assumptions/8.md). -/
inductive OverrunReports where
  | perItem | perConsume
  deriving DecidableEq, Repr

/-- COLOR_K, the four colour constants of R228. -/
structure ColorK where
  kr : Int
  kgb : Int
  kgr : Int
  kb : Int
  deriving DecidableEq, Repr

/-- The implementation parameters of R7 (those of R6 are fixed and stand in the definitions that use them). -/
structure Config where
  /-- AC_TABLE, EOB_CODE, ESC_CODE. -/
  acCode : AcCode
  /-- DC_CODE. -/
  dcCode : DcCode
  /-- BLOCK_ROLE, position 0..5 to role (R161). -/
  blockRole : List Role
  /-- DC_RESET_PER_MB (R168). -/
  dcResetPerMb : Bool
  /-- ZIGZAG (R116), the raster index of each zig-zag position. -/
  zigzag : List Nat
  /-- QMATRIX, indexed by zig-zag position (R117). -/
  qmatrix : List Nat
  /-- DEQUANT (R220, R221). -/
  dequant : Choice
  /-- IDCT_1D (R225). -/
  idct : Choice
  /-- The level-shift rule (R226, R227, R233). -/
  levelShift : Choice
  /-- COLOR_K (R228). -/
  colorK : ColorK
  /-- The packing (R229, R233). -/
  pack : Choice
  /-- FRAME_W in pixels. -/
  frameW : Nat
  /-- FRAME_H in pixels. -/
  frameH : Nat
  /-- FRAME_CAPACITY in pixels (R332). -/
  frameCapacity : Nat
  /-- SEG_TYPE_ID (R293). -/
  segTypeId : Half
  /-- VALID_VERSIONS (R293). -/
  validVersions : List Half
  /-- FLAT_VERSIONS (R293). -/
  flatVersions : List Half
  /-- TEX_MAGIC (R284). -/
  texMagic : Word
  /-- TEX_TYPES (R284). -/
  texTypes : List Word
  /-- TEX_PREFIXES (R298). -/
  texPrefixes : List Half
  /-- TEX_RECORD (R300). -/
  texRecord : TexRecord
  /-- SEG_ENTRY_CAPACITY (R198); `none` is ∞. -/
  segEntryCapacity : Option Nat
  /-- OOR_POLICY (R197). -/
  oorPolicy : OorPolicy
  /-- IN_MAX, the maximum input length in bytes. -/
  inMax : Nat
  /-- The model's own, not R7's: one Overrun report for each Consume of an item (R145), or one for the item. -/
  overrunReports : OverrunReports
  deriving DecidableEq, Repr

/-- No listed code is the beginning of a later or an earlier one (R102, R104). -/
def codesPrefixFree (codes : List (List Bool)) : Bool :=
  decide (codes.Pairwise fun a b => ¬ a.isPrefixOf b ∧ ¬ b.isPrefixOf a)

/-- DC_CODE is a prefix code (R104). The words of `free` are one by the way they are found (`findFreeDc`). DESIGN CHOICE: a
code word has at least one bit (notes/assumptions/29.md). -/
def DcCode.legal : DcCode → Bool
  | .candidate => true
  | .table y c => codesPrefixFree (y.map DcRow.code) && codesPrefixFree (c.map DcRow.code)
      && (y ++ c).all fun r => !r.code.isEmpty
  | .free => true

/-- AC_TABLE with EOB_CODE and ESC_CODE is a prefix code (R102, R111). DESIGN CHOICE: that is all the model asks of a table
other than R110's. It need not mismatch on the zero padding (R195, R199), so a run under it need not end, and its code
lengths, runs and magnitudes need not lie in R192's ranges, level 0 included (notes/assumptions/30.md). -/
def AcCode.legal : AcCode → Bool
  | .spec => true
  | .table rows eob esc => codesPrefixFree (eob :: esc :: rows.map AcRow.code)
      && !eob.isEmpty && !esc.isEmpty && rows.all fun r => !r.code.isEmpty

/-- The legal values of the parameters of R7. DESIGN CHOICE: a ZIGZAG is legal when it is a permutation of 0..63, where R7
types it Fin 64 -> Fin 64 and does not say that it is injective; another one runs all the same
(notes/assumptions/29.md). DESIGN CHOICE: the three codes of TEX_TYPES need not be distinct, nor the two values of
TEX_PREFIXES (notes/assumptions/31.md). What is asked of AC_TABLE and DC_CODE: `AcCode.legal`, `DcCode.legal`. -/
def Config.legal (c : Config) : Bool :=
  c.acCode.legal && c.dcCode.legal
  && decide (c.blockRole.length = 6) && decide c.blockRole.Nodup
  && decide (c.zigzag.length = 64) && decide c.zigzag.Nodup && c.zigzag.all (· < 64)
  && decide (c.qmatrix.length = 64)
  && decide (0 < c.frameW) && decide (c.frameW % 16 = 0)
  && decide (0 < c.frameH) && decide (c.frameH % 16 = 0)
  && decide (81920 ≤ c.frameCapacity)
  && c.validVersions.contains 3 && c.flatVersions.all c.validVersions.contains
  && decide (c.texTypes.length = 3) && decide (c.texPrefixes.length = 2)
  && decide (c.inMax ≤ 4294967295)

/-! The free functions and values. Each is a constant with no body: a claim about it holds for every function of its
type. -/

/-- FREE: the words of a DC_CODE under `DcCode.free`, of (luma, bits): the delta of a code word, `none` for bits that are no
code word. -/
opaque Config.freeDcWord : Bool → List Bool → Option Int

/-- FREE: under `DcCode.free`, how many bits of a stream the decoder looks at before it answers mismatch, of luma and the
bits up to the last 1. R104 makes the code total: it decides every stream after a finite number of bits. -/
opaque Config.freeDcReach : Bool → List Bool → Nat

/-- FREE: DEQUANT of the DC term, of (LEVEL[0], QMATRIX[0]), when it is not R220's. DESIGN CHOICE: it is under no law; the
flatness of DC-only blocks that R233 speaks of is not asked of it (notes/assumptions/28.md). -/
opaque Config.freeDequantDc : Int → Nat → Int

/-- FREE: DEQUANT of an AC term, of (LEVEL[k], QTAG, QMATRIX[k]), when it is not R221's. DESIGN CHOICE: it is under no law,
so a LEVEL of 0 need not give 0, and the flatness of DC-only blocks that R233 speaks of is not asked of it
(notes/assumptions/28.md). -/
opaque Config.freeDequantAc : Int → Nat → Nat → Int

/-- FREE: IDCT_1D, from eight integers to eight integers, when it is not R225's: the entry at the position given. DESIGN
CHOICE: it is under no law, so eight inputs with only the first one nonzero need not give eight equal outputs, and the
flatness of DC-only blocks that R233 speaks of is not asked of it (notes/assumptions/28.md). -/
opaque Config.freeIdct : List Int → Nat → Int

/-- FREE: the luma level shift before the clamp, when it is not R226's. -/
opaque Config.freeLumaShift : Int → Int

/-- FREE: the chroma level shift before the clamp, when it is not R227's. -/
opaque Config.freeChromaShift : Int → Int

/-- FREE: the packing of (R, G, B), when it is not R229's. -/
opaque Config.freePack : Int → Int → Int → Half

/-- FREE: TEX_RECORD, of the bytes from P to the segment end and P, when it is no `lengthField` layout. -/
opaque Config.freeTexRecord : List Byte → Nat → Option (Nat × Nat)

/-- FREE: the n-th draw for a sample of a poisoned block (R234): any value, under no law. -/
opaque Config.freeSample : Nat → BitVec 8

end Sys2Proof
end

