-- ==== Sys2Proof/Machine/Params.lean ====
section
/-! DEFINITION. The parameter values that the spec states (zig-zag order R116, quantisation matrix R117, colour
constants R228, the rest of 00_scope.md R7) and, where it leaves a value OPEN, the reference values of the test
assumptions of 95_test_vectors.md section 0. They are what `State.reset` holds in `cfg`; no claim rests on them. -/

namespace Sys2Proof.Machine

/-- ZIGZAG, position k to raster index 8v + u (R116). -/
def zigzagTable : List Nat :=
  [ 0,  1,  8, 16,  9,  2,  3, 10] ++
  [17, 24, 32, 25, 18, 11,  4,  5] ++
  [12, 19, 26, 33, 40, 48, 41, 34] ++
  [27, 20, 13,  6,  7, 14, 21, 28] ++
  [35, 42, 49, 56, 57, 50, 43, 36] ++
  [29, 22, 15, 23, 30, 37, 44, 51] ++
  [58, 59, 52, 45, 38, 31, 39, 46] ++
  [53, 60, 61, 54, 47, 55, 62, 63]

/-- QMATRIX, indexed by zig-zag position (R117). -/
def qmatrixTable : List Nat :=
  [ 2, 16, 16, 19, 16, 19, 22, 22] ++
  [22, 22, 22, 22, 26, 24, 26, 27] ++
  [27, 27, 26, 26, 26, 26, 27, 27] ++
  [27, 29, 29, 29, 34, 34, 34, 29] ++
  [29, 29, 27, 27, 29, 29, 32, 32] ++
  [34, 34, 37, 38, 37, 35, 35, 34] ++
  [35, 38, 38, 40, 40, 40, 48, 48] ++
  [46, 46, 56, 56, 58, 69, 69, 83]

/-- COLOR_K (R228). -/
def colorKTable : ColorK := { kr := 5743, kgb := 1410, kgr := 2925, kb := 7258 }

/-- The configuration at `State.reset`: the spec's values, and for the OPEN parameters those of 95_test_vectors.md
section 0 (PRESUMED or DESIGN CHOICE, notes/assumptions/1.md). -/
def referenceConfig : Config where
  acCode := .spec
  dcCode := .candidate
  blockRole := [.cr, .cb, .y0, .y1, .y2, .y3]
  dcResetPerMb := false
  zigzag := zigzagTable
  qmatrix := qmatrixTable
  dequant := .spec
  idct := .spec
  levelShift := .spec
  colorK := colorKTable
  pack := .spec
  frameW := 16
  frameH := 16
  frameCapacity := 81920
  segTypeId := 0x3800
  validVersions := [1, 2, 3]
  flatVersions := [1, 2]
  texMagic := 0x00000010
  texTypes := [0x08, 0x09, 0x02]
  texPrefixes := [0xA5A5, 0x5A5A]
  texRecord := .lengthField 2 2 1 0 0
  segEntryCapacity := none
  oorPolicy := .drop
  inMax := 4294967295
  overrunReports := .perConsume

end Sys2Proof.Machine
end

