-- ==== Sys2Proof/Syntax.lean ====
section
/-! DEFINITION. The instructions: one constructor for each row of spec/opcode_table.json. The CORE has no instruction
set (R30, R100): its instructions are the code words of the VLC bitstream, the container records and the host
commands. `neg` is the sign bit of an AC_VLC item (R107), `b` the literal of a DC_PRED item (R105). -/

namespace Sys2Proof

inductive Instr where
  | acR0L1 (neg : Bool)
  | acR1L1 (neg : Bool)
  | acR0L2 (neg : Bool)
  | acR2L1 (neg : Bool)
  | acR0L3 (neg : Bool)
  | acR3L1 (neg : Bool)
  | acR4L1 (neg : Bool)
  | acR1L2 (neg : Bool)
  | acR5L1 (neg : Bool)
  | acR6L1 (neg : Bool)
  | acR7L1 (neg : Bool)
  | acR0L4 (neg : Bool)
  | acR2L2 (neg : Bool)
  | acR8L1 (neg : Bool)
  | acR9L1 (neg : Bool)
  | acR0L5 (neg : Bool)
  | acR0L6 (neg : Bool)
  | acR1L3 (neg : Bool)
  | acR3L2 (neg : Bool)
  | acR10L1 (neg : Bool)
  | acR11L1 (neg : Bool)
  | acR12L1 (neg : Bool)
  | acR13L1 (neg : Bool)
  | acR0L7 (neg : Bool)
  | acR1L4 (neg : Bool)
  | acR2L3 (neg : Bool)
  | acR4L2 (neg : Bool)
  | acR5L2 (neg : Bool)
  | acR14L1 (neg : Bool)
  | acR15L1 (neg : Bool)
  | acR16L1 (neg : Bool)
  | acR0L8 (neg : Bool)
  | acR0L9 (neg : Bool)
  | acR0L10 (neg : Bool)
  | acR0L11 (neg : Bool)
  | acR1L5 (neg : Bool)
  | acR2L4 (neg : Bool)
  | acR3L3 (neg : Bool)
  | acR4L3 (neg : Bool)
  | acR6L2 (neg : Bool)
  | acR7L2 (neg : Bool)
  | acR8L2 (neg : Bool)
  | acR17L1 (neg : Bool)
  | acR18L1 (neg : Bool)
  | acR19L1 (neg : Bool)
  | acR20L1 (neg : Bool)
  | acR21L1 (neg : Bool)
  | acR0L12 (neg : Bool)
  | acR0L13 (neg : Bool)
  | acR0L14 (neg : Bool)
  | acR0L15 (neg : Bool)
  | acR1L6 (neg : Bool)
  | acR1L7 (neg : Bool)
  | acR2L5 (neg : Bool)
  | acR3L4 (neg : Bool)
  | acR5L3 (neg : Bool)
  | acR9L2 (neg : Bool)
  | acR10L2 (neg : Bool)
  | acR22L1 (neg : Bool)
  | acR23L1 (neg : Bool)
  | acR24L1 (neg : Bool)
  | acR25L1 (neg : Bool)
  | acR26L1 (neg : Bool)
  | acR0L16 (neg : Bool)
  | acR0L17 (neg : Bool)
  | acR0L18 (neg : Bool)
  | acR0L19 (neg : Bool)
  | acR0L20 (neg : Bool)
  | acR0L21 (neg : Bool)
  | acR0L22 (neg : Bool)
  | acR0L23 (neg : Bool)
  | acR0L24 (neg : Bool)
  | acR0L25 (neg : Bool)
  | acR0L26 (neg : Bool)
  | acR0L27 (neg : Bool)
  | acR0L28 (neg : Bool)
  | acR0L29 (neg : Bool)
  | acR0L30 (neg : Bool)
  | acR0L31 (neg : Bool)
  | acR0L32 (neg : Bool)
  | acR0L33 (neg : Bool)
  | acR0L34 (neg : Bool)
  | acR0L35 (neg : Bool)
  | acR0L36 (neg : Bool)
  | acR0L37 (neg : Bool)
  | acR0L38 (neg : Bool)
  | acR0L39 (neg : Bool)
  | acR0L40 (neg : Bool)
  | acR1L8 (neg : Bool)
  | acR1L9 (neg : Bool)
  | acR1L10 (neg : Bool)
  | acR1L11 (neg : Bool)
  | acR1L12 (neg : Bool)
  | acR1L13 (neg : Bool)
  | acR1L14 (neg : Bool)
  | acR1L15 (neg : Bool)
  | acR1L16 (neg : Bool)
  | acR1L17 (neg : Bool)
  | acR1L18 (neg : Bool)
  | acR6L3 (neg : Bool)
  | acR11L2 (neg : Bool)
  | acR12L2 (neg : Bool)
  | acR13L2 (neg : Bool)
  | acR14L2 (neg : Bool)
  | acR15L2 (neg : Bool)
  | acR16L2 (neg : Bool)
  | acR27L1 (neg : Bool)
  | acR28L1 (neg : Bool)
  | acR29L1 (neg : Bool)
  | acR30L1 (neg : Bool)
  | acR31L1 (neg : Bool)
  /-- AC_ESC: the raw 6-bit run and 11-bit level (R109). -/
  | esc (run : BitVec 6) (level : BitVec 11)
  /-- AC_EOB (R108). -/
  | eob
  /-- DC_FLAT: the 10-bit literal (R103). -/
  | dcf (d : BitVec 10)
  | dcy0
  | dcy1 (b : BitVec 1)
  | dcy2 (b : BitVec 2)
  | dcy3 (b : BitVec 3)
  | dcy4 (b : BitVec 4)
  | dcy5 (b : BitVec 5)
  | dcy6 (b : BitVec 6)
  | dcy7 (b : BitVec 7)
  | dcy8 (b : BitVec 8)
  | dcc0
  | dcc1 (b : BitVec 1)
  | dcc2 (b : BitVec 2)
  | dcc3 (b : BitVec 3)
  | dcc4 (b : BitVec 4)
  | dcc5 (b : BitVec 5)
  | dcc6 (b : BitVec 6)
  | dcc7 (b : BitVec 7)
  | dcc8 (b : BitVec 8)
  /-- SEG_HDR: the four little-endian fields of a segment header (R114). -/
  | segHdr (length typeId quant version : Half)
  /-- TILED_TEX: the magic and type words of a native texture at CUR (R115). -/
  | tiledTex (magic typ : Word)
  /-- RAW_CHUNK: the 163840 bytes of pixels at CUR, which stay in IN (R115). -/
  | rawChunk
  /-- TEX_PREFIX: the recognised 16-bit value at the probe offset (R118). -/
  | texPrefix (p : Half)
  /-- START: a CTRL write with bit 0 = 1; MODE, REORG and SRC_ERR are bits 1, 2 and 3 (R119, R282). -/
  | start (mode reorg srcErr : Bool)
  /-- CTRL_SET: a CTRL write with bit 0 = 0 (R119). -/
  | ctrlSet (mode reorg srcErr : Bool)
  deriving DecidableEq, Repr

end Sys2Proof
end

