-- ==== Sys2Proof/WellFormed.lean ====
section
/-! DEFINITION. Which instructions a machine with configuration `c` has: its code words (R102, R104), a segment header
with the sentinel type-id and a valid version (R114), a texture header with the magic and a known type (R115), and
a recognised texture pattern (R118). -/

namespace Sys2Proof

/-- `i` is an instruction of the machine with parameters `c`. -/
def WellFormed (c : Config) (i : Instr) : Bool :=
  match i with
  | .acR0L1 _ | .acR1L1 _ | .acR0L2 _ | .acR2L1 _ | .acR0L3 _ | .acR3L1 _ | .acR4L1 _ | .acR1L2 _ | .acR5L1 _
  | .acR6L1 _ | .acR7L1 _ | .acR0L4 _ | .acR2L2 _ | .acR8L1 _ | .acR9L1 _ | .acR0L5 _ | .acR0L6 _ | .acR1L3 _
  | .acR3L2 _ | .acR10L1 _ | .acR11L1 _ | .acR12L1 _ | .acR13L1 _ | .acR0L7 _ | .acR1L4 _ | .acR2L3 _
  | .acR4L2 _ | .acR5L2 _ | .acR14L1 _ | .acR15L1 _ | .acR16L1 _ | .acR0L8 _ | .acR0L9 _ | .acR0L10 _
  | .acR0L11 _ | .acR1L5 _ | .acR2L4 _ | .acR3L3 _ | .acR4L3 _ | .acR6L2 _ | .acR7L2 _ | .acR8L2 _ | .acR17L1 _
  | .acR18L1 _ | .acR19L1 _ | .acR20L1 _ | .acR21L1 _ | .acR0L12 _ | .acR0L13 _ | .acR0L14 _ | .acR0L15 _
  | .acR1L6 _ | .acR1L7 _ | .acR2L5 _ | .acR3L4 _ | .acR5L3 _ | .acR9L2 _ | .acR10L2 _ | .acR22L1 _
  | .acR23L1 _ | .acR24L1 _ | .acR25L1 _ | .acR26L1 _ | .acR0L16 _ | .acR0L17 _ | .acR0L18 _ | .acR0L19 _
  | .acR0L20 _ | .acR0L21 _ | .acR0L22 _ | .acR0L23 _ | .acR0L24 _ | .acR0L25 _ | .acR0L26 _ | .acR0L27 _
  | .acR0L28 _ | .acR0L29 _ | .acR0L30 _ | .acR0L31 _ | .acR0L32 _ | .acR0L33 _ | .acR0L34 _ | .acR0L35 _
  | .acR0L36 _ | .acR0L37 _ | .acR0L38 _ | .acR0L39 _ | .acR0L40 _ | .acR1L8 _ | .acR1L9 _ | .acR1L10 _
  | .acR1L11 _ | .acR1L12 _ | .acR1L13 _ | .acR1L14 _ | .acR1L15 _ | .acR1L16 _ | .acR1L17 _ | .acR1L18 _
  | .acR6L3 _ | .acR11L2 _ | .acR12L2 _ | .acR13L2 _ | .acR14L2 _ | .acR15L2 _ | .acR16L2 _ | .acR27L1 _
  | .acR28L1 _ | .acR29L1 _ | .acR30L1 _ | .acR31L1 _
  | .esc _ _ | .eob => decide (c.acCode = .spec)
  | .dcf _ => true
  | .dcy0
  | .dcy1 _ | .dcy2 _ | .dcy3 _ | .dcy4 _ | .dcy5 _ | .dcy6 _ | .dcy7 _ | .dcy8 _
  | .dcc0
  | .dcc1 _ | .dcc2 _ | .dcc3 _ | .dcc4 _ | .dcc5 _ | .dcc6 _ | .dcc7 _ | .dcc8 _ => decide (c.dcCode = .candidate)
  | .segHdr _ typeId _ version => decide (typeId = c.segTypeId) && c.validVersions.contains version
  | .tiledTex magic typ => decide (magic = c.texMagic) && c.texTypes.contains typ
  | .rawChunk => true
  | .texPrefix p => c.texPrefixes.contains p
  | .start _ _ _ | .ctrlSet _ _ _ => true

end Sys2Proof
end

