-- ==== Sys2Proof/Decode.lean ====
section
/-! DEFINITION. The decoder of the bitstream codes, container records and host commands (30_encoding.md), total on any
input and rejecting by name, and after it the encoder. A stream of bits is a list, first stream bit first (R9, R73);
a record is a list of bytes in address order; a host command is the 32-bit value written to CTRL. -/

namespace Sys2Proof

/-- Where a code stands: the grammar of R101 and the phases of R292 say which format comes next (R100). -/
inductive Context where
  /-- The first code of a block, FLAT = 1. -/
  | dcFlat
  /-- The first code of a luma block, FLAT = 0. -/
  | dcLuma
  /-- The first code of a chroma block, FLAT = 0. -/
  | dcChroma
  /-- After the DC code (R191). -/
  | acItem
  /-- A segment header (R293). -/
  | segHdr
  /-- The chunk cursor of the tiled framer, with `rem` bytes left (R284). -/
  | tiled (rem : Nat)
  /-- The probe offset after a segment payload (R298). -/
  | probe
  /-- A write to CTRL (R119). -/
  | host
  deriving DecidableEq, Repr

/-- The raw form of a code: stream bits, record bytes or a CTRL value. -/
inductive Code where
  | bits (b : List Bool)
  | bytes (b : List Byte)
  | word (w : Word)
  deriving DecidableEq, Repr

/-- Why the decoder refuses an input. -/
inductive Reject where
  /-- No pattern of the DC code matches (R167). -/
  | dcMismatch
  /-- No AC code matches (R195). -/
  | acMismatch
  /-- A short header, a wrong type-id or an invalid version (R293). -/
  | formatMismatch
  /-- Neither a texture header nor a whole raw chunk (R288). -/
  | unknownChunk
  /-- No recognised texture pattern (R298). -/
  | noTexture
  /-- The input's form is not the context's. -/
  | wrongForm
  deriving DecidableEq, Repr

/-- A code word of a parameter table that is no row of the opcode table (R7: AC_TABLE, DC_CODE). -/
inductive TableItem where
  | ac (codeLen run mag : Nat) (neg : Bool)
  | esc (codeLen : Nat) (run : BitVec 6) (level : BitVec 11)
  | eob (codeLen : Nat)
  | dc (delta : Int) (len : Nat)
  deriving DecidableEq, Repr

/-- What the decoder answers. -/
inductive Decoded where
  | ok (i : Instr)
  | other (t : TableItem)
  | reject (why : Reject)
  deriving DecidableEq, Repr

/-! Bit and byte helpers. -/

/-- The low `n` bits of `v`, most significant first (R9). -/
def natBits : Nat → Nat → List Bool
  | 0, _ => []
  | n + 1, v => v.testBit n :: natBits n v

/-- The number whose bits are `b`, most significant first. -/
def bitsNat (b : List Bool) : Nat := b.foldl (fun acc x => 2 * acc + x.toNat) 0

/-- The `n` bits after the first `k`, as a number. -/
def bitField (b : List Bool) (k n : Nat) : Nat := bitsNat ((b.drop k).take n)

/-- The little-endian value of a list of bytes (R12, R72). -/
def leNat : List Byte → Nat
  | [] => 0
  | x :: r => x.toNat + 256 * leNat r

/-- The `n` bytes after the first `k`, as a little-endian number. -/
def byteField (b : List Byte) (k n : Nat) : Nat := leNat ((b.drop k).take n)

/-- The low `n` bytes of `v`, least significant first. -/
def natBytes : Nat → Nat → List Byte
  | 0, _ => []
  | n + 1, v => BitVec.ofNat 8 v :: natBytes n (v / 256)

/-! The AC codes (R107 to R110). -/

/-- A row of AC_TABLE: the code word of `codeLen` bits, its run and magnitude, and the instruction it is. -/
structure AcEntry where
  codeLen : Nat
  code : Nat
  run : Nat
  mag : Nat
  instr : Bool → Instr

def acTable1 : List AcEntry :=
  [ ⟨2, 0b11, 0, 1, .acR0L1⟩
  , ⟨3, 0b011, 1, 1, .acR1L1⟩
  , ⟨4, 0b0100, 0, 2, .acR0L2⟩
  , ⟨4, 0b0101, 2, 1, .acR2L1⟩
  , ⟨5, 0b00101, 0, 3, .acR0L3⟩
  , ⟨5, 0b00111, 3, 1, .acR3L1⟩
  , ⟨5, 0b00110, 4, 1, .acR4L1⟩
  , ⟨6, 0b000110, 1, 2, .acR1L2⟩
  , ⟨6, 0b000111, 5, 1, .acR5L1⟩
  , ⟨6, 0b000101, 6, 1, .acR6L1⟩
  , ⟨6, 0b000100, 7, 1, .acR7L1⟩
  , ⟨7, 0b0000110, 0, 4, .acR0L4⟩
  , ⟨7, 0b0000100, 2, 2, .acR2L2⟩
  , ⟨7, 0b0000111, 8, 1, .acR8L1⟩
  , ⟨7, 0b0000101, 9, 1, .acR9L1⟩
  , ⟨8, 0b00100110, 0, 5, .acR0L5⟩ ]

def acTable2 : List AcEntry :=
  [ ⟨8, 0b00100001, 0, 6, .acR0L6⟩
  , ⟨8, 0b00100101, 1, 3, .acR1L3⟩
  , ⟨8, 0b00100100, 3, 2, .acR3L2⟩
  , ⟨8, 0b00100111, 10, 1, .acR10L1⟩
  , ⟨8, 0b00100011, 11, 1, .acR11L1⟩
  , ⟨8, 0b00100010, 12, 1, .acR12L1⟩
  , ⟨8, 0b00100000, 13, 1, .acR13L1⟩
  , ⟨10, 0b0000001010, 0, 7, .acR0L7⟩
  , ⟨10, 0b0000001100, 1, 4, .acR1L4⟩
  , ⟨10, 0b0000001011, 2, 3, .acR2L3⟩
  , ⟨10, 0b0000001111, 4, 2, .acR4L2⟩
  , ⟨10, 0b0000001001, 5, 2, .acR5L2⟩
  , ⟨10, 0b0000001110, 14, 1, .acR14L1⟩
  , ⟨10, 0b0000001101, 15, 1, .acR15L1⟩
  , ⟨10, 0b0000001000, 16, 1, .acR16L1⟩
  , ⟨12, 0b000000011101, 0, 8, .acR0L8⟩ ]

def acTable3 : List AcEntry :=
  [ ⟨12, 0b000000011000, 0, 9, .acR0L9⟩
  , ⟨12, 0b000000010011, 0, 10, .acR0L10⟩
  , ⟨12, 0b000000010000, 0, 11, .acR0L11⟩
  , ⟨12, 0b000000011011, 1, 5, .acR1L5⟩
  , ⟨12, 0b000000010100, 2, 4, .acR2L4⟩
  , ⟨12, 0b000000011100, 3, 3, .acR3L3⟩
  , ⟨12, 0b000000010010, 4, 3, .acR4L3⟩
  , ⟨12, 0b000000011110, 6, 2, .acR6L2⟩
  , ⟨12, 0b000000010101, 7, 2, .acR7L2⟩
  , ⟨12, 0b000000010001, 8, 2, .acR8L2⟩
  , ⟨12, 0b000000011111, 17, 1, .acR17L1⟩
  , ⟨12, 0b000000011010, 18, 1, .acR18L1⟩
  , ⟨12, 0b000000011001, 19, 1, .acR19L1⟩
  , ⟨12, 0b000000010111, 20, 1, .acR20L1⟩
  , ⟨12, 0b000000010110, 21, 1, .acR21L1⟩
  , ⟨13, 0b0000000011010, 0, 12, .acR0L12⟩ ]

def acTable4 : List AcEntry :=
  [ ⟨13, 0b0000000011001, 0, 13, .acR0L13⟩
  , ⟨13, 0b0000000011000, 0, 14, .acR0L14⟩
  , ⟨13, 0b0000000010111, 0, 15, .acR0L15⟩
  , ⟨13, 0b0000000010110, 1, 6, .acR1L6⟩
  , ⟨13, 0b0000000010101, 1, 7, .acR1L7⟩
  , ⟨13, 0b0000000010100, 2, 5, .acR2L5⟩
  , ⟨13, 0b0000000010011, 3, 4, .acR3L4⟩
  , ⟨13, 0b0000000010010, 5, 3, .acR5L3⟩
  , ⟨13, 0b0000000010001, 9, 2, .acR9L2⟩
  , ⟨13, 0b0000000010000, 10, 2, .acR10L2⟩
  , ⟨13, 0b0000000011111, 22, 1, .acR22L1⟩
  , ⟨13, 0b0000000011110, 23, 1, .acR23L1⟩
  , ⟨13, 0b0000000011101, 24, 1, .acR24L1⟩
  , ⟨13, 0b0000000011100, 25, 1, .acR25L1⟩
  , ⟨13, 0b0000000011011, 26, 1, .acR26L1⟩
  , ⟨14, 0b00000000011111, 0, 16, .acR0L16⟩ ]

def acTable5 : List AcEntry :=
  [ ⟨14, 0b00000000011110, 0, 17, .acR0L17⟩
  , ⟨14, 0b00000000011101, 0, 18, .acR0L18⟩
  , ⟨14, 0b00000000011100, 0, 19, .acR0L19⟩
  , ⟨14, 0b00000000011011, 0, 20, .acR0L20⟩
  , ⟨14, 0b00000000011010, 0, 21, .acR0L21⟩
  , ⟨14, 0b00000000011001, 0, 22, .acR0L22⟩
  , ⟨14, 0b00000000011000, 0, 23, .acR0L23⟩
  , ⟨14, 0b00000000010111, 0, 24, .acR0L24⟩
  , ⟨14, 0b00000000010110, 0, 25, .acR0L25⟩
  , ⟨14, 0b00000000010101, 0, 26, .acR0L26⟩
  , ⟨14, 0b00000000010100, 0, 27, .acR0L27⟩
  , ⟨14, 0b00000000010011, 0, 28, .acR0L28⟩
  , ⟨14, 0b00000000010010, 0, 29, .acR0L29⟩
  , ⟨14, 0b00000000010001, 0, 30, .acR0L30⟩
  , ⟨14, 0b00000000010000, 0, 31, .acR0L31⟩
  , ⟨15, 0b000000000011000, 0, 32, .acR0L32⟩ ]

def acTable6 : List AcEntry :=
  [ ⟨15, 0b000000000010111, 0, 33, .acR0L33⟩
  , ⟨15, 0b000000000010110, 0, 34, .acR0L34⟩
  , ⟨15, 0b000000000010101, 0, 35, .acR0L35⟩
  , ⟨15, 0b000000000010100, 0, 36, .acR0L36⟩
  , ⟨15, 0b000000000010011, 0, 37, .acR0L37⟩
  , ⟨15, 0b000000000010010, 0, 38, .acR0L38⟩
  , ⟨15, 0b000000000010001, 0, 39, .acR0L39⟩
  , ⟨15, 0b000000000010000, 0, 40, .acR0L40⟩
  , ⟨15, 0b000000000011111, 1, 8, .acR1L8⟩
  , ⟨15, 0b000000000011110, 1, 9, .acR1L9⟩
  , ⟨15, 0b000000000011101, 1, 10, .acR1L10⟩
  , ⟨15, 0b000000000011100, 1, 11, .acR1L11⟩
  , ⟨15, 0b000000000011011, 1, 12, .acR1L12⟩
  , ⟨15, 0b000000000011010, 1, 13, .acR1L13⟩
  , ⟨15, 0b000000000011001, 1, 14, .acR1L14⟩
  , ⟨16, 0b0000000000010011, 1, 15, .acR1L15⟩ ]

def acTable7 : List AcEntry :=
  [ ⟨16, 0b0000000000010010, 1, 16, .acR1L16⟩
  , ⟨16, 0b0000000000010001, 1, 17, .acR1L17⟩
  , ⟨16, 0b0000000000010000, 1, 18, .acR1L18⟩
  , ⟨16, 0b0000000000010100, 6, 3, .acR6L3⟩
  , ⟨16, 0b0000000000011010, 11, 2, .acR11L2⟩
  , ⟨16, 0b0000000000011001, 12, 2, .acR12L2⟩
  , ⟨16, 0b0000000000011000, 13, 2, .acR13L2⟩
  , ⟨16, 0b0000000000010111, 14, 2, .acR14L2⟩
  , ⟨16, 0b0000000000010110, 15, 2, .acR15L2⟩
  , ⟨16, 0b0000000000010101, 16, 2, .acR16L2⟩
  , ⟨16, 0b0000000000011111, 27, 1, .acR27L1⟩
  , ⟨16, 0b0000000000011110, 28, 1, .acR28L1⟩
  , ⟨16, 0b0000000000011101, 29, 1, .acR29L1⟩
  , ⟨16, 0b0000000000011100, 30, 1, .acR30L1⟩
  , ⟨16, 0b0000000000011011, 31, 1, .acR31L1⟩ ]

/-- AC_TABLE, the 111 rows of R110 in its order. -/
def acTable : List AcEntry :=
  acTable1 ++ acTable2 ++ acTable3 ++ acTable4 ++ acTable5 ++ acTable6 ++ acTable7

/-- EOB_CODE (R108). -/
def eobCode : List Bool := [true, false]

/-- ESC_CODE (R109). -/
def escCode : List Bool := [false, false, false, false, false, true]

/-- The first row of the AC table whose code begins `b`, with the sign bit that follows it (R107, R192). -/
def findAc : List AcEntry → List Bool → Option Instr
  | [], _ => none
  | e :: r, b => if (natBits e.codeLen e.code).isPrefixOf b then some (e.instr (b.getD e.codeLen false)) else findAc r b

/-- The first row of another AC table whose code begins `b`, with the sign bit that follows it. DESIGN CHOICE: the sign is a
bit after the code under every table (notes/assumptions/32.md). -/
def findAcRow : List AcRow → List Bool → Option TableItem
  | [], _ => none
  | e :: r, b =>
    if e.code.isPrefixOf b then some (.ac e.code.length e.run e.mag (b.getD e.code.length false)) else findAcRow r b

/-- One AC item (R191): end of block, escape, a table row, or a mismatch. An escape is read whatever its run and level, a
pair that the table can express included (R109, R121). -/
def decodeAc (a : AcCode) (b : List Bool) : Decoded :=
  match a with
  | .spec =>
    if eobCode.isPrefixOf b then .ok .eob
    else if escCode.isPrefixOf b then .ok (.esc (BitVec.ofNat 6 (bitField b 6 6)) (BitVec.ofNat 11 (bitField b 12 11)))
    else match findAc acTable b with
      | some i => .ok i
      | none => .reject .acMismatch
  | .table rows eob esc =>
    if eob.isPrefixOf b then .other (.eob eob.length)
    else if esc.isPrefixOf b then
      .other (.esc esc.length (BitVec.ofNat 6 (bitField b esc.length 6)) (BitVec.ofNat 11 (bitField b (esc.length + 6) 11)))
    else match findAcRow rows b with
      | some t => .other t
      | none => .reject .acMismatch

/-! The DC codes (R103 to R106). -/

/-- A row of the DC_CODE candidate (R105): the size code, the number of literal bits, and the instruction. -/
structure DcEntry where
  codeLen : Nat
  code : Nat
  size : Nat
  instr : Nat → Instr

/-- DC_PRED_Y, the luma column of R105. -/
def dcLumaTable : List DcEntry :=
  [ ⟨3, 0b100, 0, fun _ => .dcy0⟩
  , ⟨2, 0b00, 1, fun b => .dcy1 (BitVec.ofNat 1 b)⟩
  , ⟨2, 0b01, 2, fun b => .dcy2 (BitVec.ofNat 2 b)⟩
  , ⟨3, 0b101, 3, fun b => .dcy3 (BitVec.ofNat 3 b)⟩
  , ⟨3, 0b110, 4, fun b => .dcy4 (BitVec.ofNat 4 b)⟩
  , ⟨4, 0b1110, 5, fun b => .dcy5 (BitVec.ofNat 5 b)⟩
  , ⟨5, 0b11110, 6, fun b => .dcy6 (BitVec.ofNat 6 b)⟩
  , ⟨6, 0b111110, 7, fun b => .dcy7 (BitVec.ofNat 7 b)⟩
  , ⟨7, 0b1111110, 8, fun b => .dcy8 (BitVec.ofNat 8 b)⟩ ]

/-- DC_PRED_C, the chroma column of R105. -/
def dcChromaTable : List DcEntry :=
  [ ⟨2, 0b00, 0, fun _ => .dcc0⟩
  , ⟨2, 0b01, 1, fun b => .dcc1 (BitVec.ofNat 1 b)⟩
  , ⟨2, 0b10, 2, fun b => .dcc2 (BitVec.ofNat 2 b)⟩
  , ⟨3, 0b110, 3, fun b => .dcc3 (BitVec.ofNat 3 b)⟩
  , ⟨4, 0b1110, 4, fun b => .dcc4 (BitVec.ofNat 4 b)⟩
  , ⟨5, 0b11110, 5, fun b => .dcc5 (BitVec.ofNat 5 b)⟩
  , ⟨6, 0b111110, 6, fun b => .dcc6 (BitVec.ofNat 6 b)⟩
  , ⟨7, 0b1111110, 7, fun b => .dcc7 (BitVec.ofNat 7 b)⟩
  , ⟨8, 0b11111110, 8, fun b => .dcc8 (BitVec.ofNat 8 b)⟩ ]

/-- The first row whose size code begins `b`, with the literal that follows it (R105). -/
def findDc : List DcEntry → List Bool → Option Instr
  | [], _ => none
  | e :: r, b => if (natBits e.codeLen e.code).isPrefixOf b then some (e.instr (bitField b e.codeLen e.size)) else findDc r b

/-- The first row of another DC code that begins `b` (R104). -/
def findDcRow : List DcRow → List Bool → Option TableItem
  | [], _ => none
  | e :: r, b => if e.code.isPrefixOf b then some (.dc e.delta e.code.length) else findDcRow r b

/-- A stream less the zeros at its end: past the region a stream is zeros (R141), so this is all there is of it. -/
def dropZeros (b : List Bool) : List Bool := (b.reverse.dropWhile fun x => !x).reverse

/-- The first `n` bits of a stream that begins with `b` and goes on with zeros. -/
def streamPrefix (b : List Bool) (n : Nat) : List Bool := (List.range n).map fun j => b.getD j false

/-- The shortest code word, of `n` or more bits, that begins `b`, among `fuel` lengths (R104: a code word decides alone, and
no bits after it matter). -/
def findFreeDc (luma : Bool) (b : List Bool) : Nat → Nat → Option TableItem
  | 0, _ => none
  | fuel + 1, n => match Config.freeDcWord luma (streamPrefix b n) with
    | some delta => some (.dc delta n)
    | none => findFreeDc luma b fuel (n + 1)

/-- The predictive DC code of a luma or a chroma block (R164). -/
def decodeDcPred (a : DcCode) (luma : Bool) (b : List Bool) : Decoded :=
  match a with
  | .candidate =>
    match findDc (if luma then dcLumaTable else dcChromaTable) b with
    | some i => .ok i
    | none => .reject .dcMismatch
  | .table y c =>
    match findDcRow (if luma then y else c) b with
    | some t => .other t
    | none => .reject .dcMismatch
  | .free =>
    match findFreeDc luma b (Config.freeDcReach luma (dropZeros b)) 1 with
    | some t => .other t
    | none => .reject .dcMismatch

/-! The container records and host commands. -/

/-- A segment header (R114, R293). -/
def decodeSegHdr (c : Config) (b : List Byte) : Decoded :=
  let typeId := BitVec.ofNat 16 (byteField b 2 2)
  let version := BitVec.ofNat 16 (byteField b 6 2)
  if 8 ≤ b.length ∧ typeId = c.segTypeId ∧ c.validVersions.contains version then
    .ok (.segHdr (BitVec.ofNat 16 (byteField b 0 2)) typeId (BitVec.ofNat 16 (byteField b 4 2)) version)
  else .reject .formatMismatch

/-- Classify a chunk of the tiled container from its first 8 bytes and the number of bytes left (R284). -/
def decodeTiled (c : Config) (rem : Nat) (b : List Byte) : Decoded :=
  let magic := BitVec.ofNat 32 (byteField b 0 4)
  let typ := BitVec.ofNat 32 (byteField b 4 4)
  if 8 ≤ rem ∧ magic = c.texMagic then
    if c.texTypes.contains typ then .ok (.tiledTex magic typ) else .reject .unknownChunk
  else if 163840 ≤ rem then .ok .rawChunk
  else .reject .unknownChunk

/-- The texture probe (R118, R298). -/
def decodeProbe (c : Config) (b : List Byte) : Decoded :=
  let p := BitVec.ofNat 16 (byteField b 0 2)
  if 2 ≤ b.length ∧ c.texPrefixes.contains p then .ok (.texPrefix p) else .reject .noTexture

/-- A CTRL write (R32, R119). Bits 31:4 are ignored. -/
def decodeHost (w : Word) : Instr :=
  if w.getLsbD 0 then .start (w.getLsbD 1) (w.getLsbD 2) (w.getLsbD 3)
  else .ctrlSet (w.getLsbD 1) (w.getLsbD 2) (w.getLsbD 3)

/-- The decoder. -/
def decode (c : Config) (x : Context) (k : Code) : Decoded :=
  match x, k with
  | .dcFlat, .bits b => .ok (.dcf (BitVec.ofNat 10 (bitField b 0 10)))
  | .dcLuma, .bits b => decodeDcPred c.dcCode true b
  | .dcChroma, .bits b => decodeDcPred c.dcCode false b
  | .acItem, .bits b => decodeAc c.acCode b
  | .segHdr, .bytes b => decodeSegHdr c b
  | .tiled rem, .bytes b => decodeTiled c rem b
  | .probe, .bytes b => decodeProbe c b
  | .host, .word w => .ok (decodeHost w)
  | _, _ => .reject .wrongForm

/-- The instruction a decoder answer holds. -/
def Decoded.instr? : Decoded → Option Instr
  | .ok i => some i
  | _ => none

/-- The first answer that is an instruction, with the context it was read in. -/
def firstInstr (c : Config) : List (Context × Code) → Option (Context × Code × Instr)
  | [] => none
  | (x, k) :: r => match (decode c x k).instr? with
    | some i => some (x, k, i)
    | none => firstInstr c r

/-- The readings of an opcode-table word, in the order they are tried. A table word carries no context, so its size
picks one: up to 8 bits or 32 bits, a CTRL write; 16 bits, DC_FLAT for a value of 10 bits, else the texture pattern; 24
bits, the 17-bit peek window (first stream bit is bit 16), an AC item, and where no AC code matches, a luma DC code; 64
bits, a segment header, else a texture header; a whole raw chunk, its first 8 bytes. -/
def tableReadings (nbits w : Nat) : List (Context × Code) :=
  if nbits ≤ 8 ∨ nbits = 32 then [(.host, .word (BitVec.ofNat 32 w))]
  else if nbits ≤ 16 then
    if w < 1024 then [(.dcFlat, .bits (natBits 10 w))] else [(.probe, .bytes (natBytes 2 w))]
  else if nbits ≤ 24 then [(.acItem, .bits (natBits 17 w)), (.dcLuma, .bits (natBits 17 w))]
  else if nbits ≤ 64 then [(.segHdr, .bytes (natBytes 8 w)), (.tiled 8, .bytes (natBytes 8 w))]
  else [(.tiled (nbits / 8), .bytes (natBytes 8 w))]

/-- The instruction of an opcode-table word under the reference parameters. -/
def decodeTableWord (nbits w : Nat) : Option Instr :=
  (firstInstr Machine.referenceConfig (tableReadings nbits w)).map fun r => r.2.2

/-! The encoder, from the same tables (R103 to R119). -/

/-- The context in which an instruction is read. -/
def Instr.context : Instr → Context
  | .acR0L1 _ | .acR1L1 _ | .acR0L2 _ | .acR2L1 _ | .acR0L3 _ | .acR3L1 _ | .acR4L1 _ | .acR1L2 _ | .acR5L1 _
  | .acR6L1 _ | .acR7L1 _ | .acR0L4 _ | .acR2L2 _ | .acR8L1 _ | .acR9L1 _ | .acR0L5 _ | .acR0L6 _ | .acR1L3 _
  | .acR3L2 _ | .acR10L1 _ | .acR11L1 _ | .acR12L1 _ | .acR13L1 _ | .acR0L7 _ | .acR1L4 _ | .acR2L3 _
  | .acR4L2 _ | .acR5L2 _ | .acR14L1 _ | .acR15L1 _ | .acR16L1 _ | .acR0L8 _ | .acR0L9 _ | .acR0L10 _
  | .acR0L11 _ | .acR1L5 _ | .acR2L4 _ | .acR3L3 _ | .acR4L3 _ | .acR6L2 _ | .acR7L2 _ | .acR8L2 _ | .acR17L1 _
  | .acR18L1 _ | .acR19L1 _ | .acR20L1 _ | .acR21L1 _ | .acR0L12 _ | .acR0L13 _ | .acR0L14 _ | .acR0L15 _
  | .acR1L6 _ | .acR1L7 _ | .acR2L5 _ | .acR3L4 _ | .acR5L3 _ | .acR9L2 _ | .acR10L2 _ | .acR22L1 _
  | .acR23L1 _ | .acR24L1 _ | .acR25L1 _ | .acR26L1 _ | .acR0L16 _ | .acR0L17 _ | .acR0L18 _ | .acR0L19 _
  | .acR0L20 _ | .acR0L21 _ | .acR0L22 _ | .acR0L23 _ | .acR0L24 _ | .acR0L25 _ | .acR0L26 _ | .acR0L27 _
  | .acR0L28 _ | .acR0L29 _ | .acR0L30 _ | .acR0L31 _ | .acR0L32 _ | .acR0L33 _ | .acR0L34 _ | .acR0L35 _
  | .acR0L36 _ | .acR0L37 _ | .acR0L38 _ | .acR0L39 _ | .acR0L40 _ | .acR1L8 _ | .acR1L9 _ | .acR1L10 _
  | .acR1L11 _ | .acR1L12 _ | .acR1L13 _ | .acR1L14 _ | .acR1L15 _ | .acR1L16 _ | .acR1L17 _ | .acR1L18 _
  | .acR6L3 _ | .acR11L2 _ | .acR12L2 _ | .acR13L2 _ | .acR14L2 _ | .acR15L2 _ | .acR16L2 _ | .acR27L1 _
  | .acR28L1 _ | .acR29L1 _ | .acR30L1 _ | .acR31L1 _
  | .esc _ _ | .eob => .acItem
  | .dcf _ => .dcFlat
  | .dcy0
  | .dcy1 _ | .dcy2 _ | .dcy3 _ | .dcy4 _ | .dcy5 _ | .dcy6 _ | .dcy7 _ | .dcy8 _ => .dcLuma
  | .dcc0
  | .dcc1 _ | .dcc2 _ | .dcc3 _ | .dcc4 _ | .dcc5 _ | .dcc6 _ | .dcc7 _ | .dcc8 _ => .dcChroma
  | .segHdr _ _ _ _ => .segHdr
  | .tiledTex _ _ => .tiled 8
  | .rawChunk => .tiled 163840
  | .texPrefix _ => .probe
  | .start _ _ _ | .ctrlSet _ _ _ => .host

/-- The value of a CTRL write. -/
def hostWord (start mode reorg srcErr : Bool) : Word :=
  BitVec.ofNat 32 (start.toNat + 2 * mode.toNat + 4 * reorg.toNat + 8 * srcErr.toNat)

/-- The bits, bytes or word of an instruction. A raw chunk's pixels are data that stay in IN: its encoding is a first 8
bytes that are no texture header. -/
def encode (c : Config) (i : Instr) : Code :=
  match i with
  | .acR0L1 neg => .bits (natBits 2 0b11 ++ [neg])
  | .acR1L1 neg => .bits (natBits 3 0b011 ++ [neg])
  | .acR0L2 neg => .bits (natBits 4 0b0100 ++ [neg])
  | .acR2L1 neg => .bits (natBits 4 0b0101 ++ [neg])
  | .acR0L3 neg => .bits (natBits 5 0b00101 ++ [neg])
  | .acR3L1 neg => .bits (natBits 5 0b00111 ++ [neg])
  | .acR4L1 neg => .bits (natBits 5 0b00110 ++ [neg])
  | .acR1L2 neg => .bits (natBits 6 0b000110 ++ [neg])
  | .acR5L1 neg => .bits (natBits 6 0b000111 ++ [neg])
  | .acR6L1 neg => .bits (natBits 6 0b000101 ++ [neg])
  | .acR7L1 neg => .bits (natBits 6 0b000100 ++ [neg])
  | .acR0L4 neg => .bits (natBits 7 0b0000110 ++ [neg])
  | .acR2L2 neg => .bits (natBits 7 0b0000100 ++ [neg])
  | .acR8L1 neg => .bits (natBits 7 0b0000111 ++ [neg])
  | .acR9L1 neg => .bits (natBits 7 0b0000101 ++ [neg])
  | .acR0L5 neg => .bits (natBits 8 0b00100110 ++ [neg])
  | .acR0L6 neg => .bits (natBits 8 0b00100001 ++ [neg])
  | .acR1L3 neg => .bits (natBits 8 0b00100101 ++ [neg])
  | .acR3L2 neg => .bits (natBits 8 0b00100100 ++ [neg])
  | .acR10L1 neg => .bits (natBits 8 0b00100111 ++ [neg])
  | .acR11L1 neg => .bits (natBits 8 0b00100011 ++ [neg])
  | .acR12L1 neg => .bits (natBits 8 0b00100010 ++ [neg])
  | .acR13L1 neg => .bits (natBits 8 0b00100000 ++ [neg])
  | .acR0L7 neg => .bits (natBits 10 0b0000001010 ++ [neg])
  | .acR1L4 neg => .bits (natBits 10 0b0000001100 ++ [neg])
  | .acR2L3 neg => .bits (natBits 10 0b0000001011 ++ [neg])
  | .acR4L2 neg => .bits (natBits 10 0b0000001111 ++ [neg])
  | .acR5L2 neg => .bits (natBits 10 0b0000001001 ++ [neg])
  | .acR14L1 neg => .bits (natBits 10 0b0000001110 ++ [neg])
  | .acR15L1 neg => .bits (natBits 10 0b0000001101 ++ [neg])
  | .acR16L1 neg => .bits (natBits 10 0b0000001000 ++ [neg])
  | .acR0L8 neg => .bits (natBits 12 0b000000011101 ++ [neg])
  | .acR0L9 neg => .bits (natBits 12 0b000000011000 ++ [neg])
  | .acR0L10 neg => .bits (natBits 12 0b000000010011 ++ [neg])
  | .acR0L11 neg => .bits (natBits 12 0b000000010000 ++ [neg])
  | .acR1L5 neg => .bits (natBits 12 0b000000011011 ++ [neg])
  | .acR2L4 neg => .bits (natBits 12 0b000000010100 ++ [neg])
  | .acR3L3 neg => .bits (natBits 12 0b000000011100 ++ [neg])
  | .acR4L3 neg => .bits (natBits 12 0b000000010010 ++ [neg])
  | .acR6L2 neg => .bits (natBits 12 0b000000011110 ++ [neg])
  | .acR7L2 neg => .bits (natBits 12 0b000000010101 ++ [neg])
  | .acR8L2 neg => .bits (natBits 12 0b000000010001 ++ [neg])
  | .acR17L1 neg => .bits (natBits 12 0b000000011111 ++ [neg])
  | .acR18L1 neg => .bits (natBits 12 0b000000011010 ++ [neg])
  | .acR19L1 neg => .bits (natBits 12 0b000000011001 ++ [neg])
  | .acR20L1 neg => .bits (natBits 12 0b000000010111 ++ [neg])
  | .acR21L1 neg => .bits (natBits 12 0b000000010110 ++ [neg])
  | .acR0L12 neg => .bits (natBits 13 0b0000000011010 ++ [neg])
  | .acR0L13 neg => .bits (natBits 13 0b0000000011001 ++ [neg])
  | .acR0L14 neg => .bits (natBits 13 0b0000000011000 ++ [neg])
  | .acR0L15 neg => .bits (natBits 13 0b0000000010111 ++ [neg])
  | .acR1L6 neg => .bits (natBits 13 0b0000000010110 ++ [neg])
  | .acR1L7 neg => .bits (natBits 13 0b0000000010101 ++ [neg])
  | .acR2L5 neg => .bits (natBits 13 0b0000000010100 ++ [neg])
  | .acR3L4 neg => .bits (natBits 13 0b0000000010011 ++ [neg])
  | .acR5L3 neg => .bits (natBits 13 0b0000000010010 ++ [neg])
  | .acR9L2 neg => .bits (natBits 13 0b0000000010001 ++ [neg])
  | .acR10L2 neg => .bits (natBits 13 0b0000000010000 ++ [neg])
  | .acR22L1 neg => .bits (natBits 13 0b0000000011111 ++ [neg])
  | .acR23L1 neg => .bits (natBits 13 0b0000000011110 ++ [neg])
  | .acR24L1 neg => .bits (natBits 13 0b0000000011101 ++ [neg])
  | .acR25L1 neg => .bits (natBits 13 0b0000000011100 ++ [neg])
  | .acR26L1 neg => .bits (natBits 13 0b0000000011011 ++ [neg])
  | .acR0L16 neg => .bits (natBits 14 0b00000000011111 ++ [neg])
  | .acR0L17 neg => .bits (natBits 14 0b00000000011110 ++ [neg])
  | .acR0L18 neg => .bits (natBits 14 0b00000000011101 ++ [neg])
  | .acR0L19 neg => .bits (natBits 14 0b00000000011100 ++ [neg])
  | .acR0L20 neg => .bits (natBits 14 0b00000000011011 ++ [neg])
  | .acR0L21 neg => .bits (natBits 14 0b00000000011010 ++ [neg])
  | .acR0L22 neg => .bits (natBits 14 0b00000000011001 ++ [neg])
  | .acR0L23 neg => .bits (natBits 14 0b00000000011000 ++ [neg])
  | .acR0L24 neg => .bits (natBits 14 0b00000000010111 ++ [neg])
  | .acR0L25 neg => .bits (natBits 14 0b00000000010110 ++ [neg])
  | .acR0L26 neg => .bits (natBits 14 0b00000000010101 ++ [neg])
  | .acR0L27 neg => .bits (natBits 14 0b00000000010100 ++ [neg])
  | .acR0L28 neg => .bits (natBits 14 0b00000000010011 ++ [neg])
  | .acR0L29 neg => .bits (natBits 14 0b00000000010010 ++ [neg])
  | .acR0L30 neg => .bits (natBits 14 0b00000000010001 ++ [neg])
  | .acR0L31 neg => .bits (natBits 14 0b00000000010000 ++ [neg])
  | .acR0L32 neg => .bits (natBits 15 0b000000000011000 ++ [neg])
  | .acR0L33 neg => .bits (natBits 15 0b000000000010111 ++ [neg])
  | .acR0L34 neg => .bits (natBits 15 0b000000000010110 ++ [neg])
  | .acR0L35 neg => .bits (natBits 15 0b000000000010101 ++ [neg])
  | .acR0L36 neg => .bits (natBits 15 0b000000000010100 ++ [neg])
  | .acR0L37 neg => .bits (natBits 15 0b000000000010011 ++ [neg])
  | .acR0L38 neg => .bits (natBits 15 0b000000000010010 ++ [neg])
  | .acR0L39 neg => .bits (natBits 15 0b000000000010001 ++ [neg])
  | .acR0L40 neg => .bits (natBits 15 0b000000000010000 ++ [neg])
  | .acR1L8 neg => .bits (natBits 15 0b000000000011111 ++ [neg])
  | .acR1L9 neg => .bits (natBits 15 0b000000000011110 ++ [neg])
  | .acR1L10 neg => .bits (natBits 15 0b000000000011101 ++ [neg])
  | .acR1L11 neg => .bits (natBits 15 0b000000000011100 ++ [neg])
  | .acR1L12 neg => .bits (natBits 15 0b000000000011011 ++ [neg])
  | .acR1L13 neg => .bits (natBits 15 0b000000000011010 ++ [neg])
  | .acR1L14 neg => .bits (natBits 15 0b000000000011001 ++ [neg])
  | .acR1L15 neg => .bits (natBits 16 0b0000000000010011 ++ [neg])
  | .acR1L16 neg => .bits (natBits 16 0b0000000000010010 ++ [neg])
  | .acR1L17 neg => .bits (natBits 16 0b0000000000010001 ++ [neg])
  | .acR1L18 neg => .bits (natBits 16 0b0000000000010000 ++ [neg])
  | .acR6L3 neg => .bits (natBits 16 0b0000000000010100 ++ [neg])
  | .acR11L2 neg => .bits (natBits 16 0b0000000000011010 ++ [neg])
  | .acR12L2 neg => .bits (natBits 16 0b0000000000011001 ++ [neg])
  | .acR13L2 neg => .bits (natBits 16 0b0000000000011000 ++ [neg])
  | .acR14L2 neg => .bits (natBits 16 0b0000000000010111 ++ [neg])
  | .acR15L2 neg => .bits (natBits 16 0b0000000000010110 ++ [neg])
  | .acR16L2 neg => .bits (natBits 16 0b0000000000010101 ++ [neg])
  | .acR27L1 neg => .bits (natBits 16 0b0000000000011111 ++ [neg])
  | .acR28L1 neg => .bits (natBits 16 0b0000000000011110 ++ [neg])
  | .acR29L1 neg => .bits (natBits 16 0b0000000000011101 ++ [neg])
  | .acR30L1 neg => .bits (natBits 16 0b0000000000011100 ++ [neg])
  | .acR31L1 neg => .bits (natBits 16 0b0000000000011011 ++ [neg])
  | .esc run level => .bits (escCode ++ natBits 6 run.toNat ++ natBits 11 level.toNat)
  | .eob => .bits eobCode
  | .dcf d => .bits (natBits 10 d.toNat)
  | .dcy0 => .bits (natBits 3 0b100)
  | .dcy1 b => .bits (natBits 2 0b00 ++ natBits 1 b.toNat)
  | .dcy2 b => .bits (natBits 2 0b01 ++ natBits 2 b.toNat)
  | .dcy3 b => .bits (natBits 3 0b101 ++ natBits 3 b.toNat)
  | .dcy4 b => .bits (natBits 3 0b110 ++ natBits 4 b.toNat)
  | .dcy5 b => .bits (natBits 4 0b1110 ++ natBits 5 b.toNat)
  | .dcy6 b => .bits (natBits 5 0b11110 ++ natBits 6 b.toNat)
  | .dcy7 b => .bits (natBits 6 0b111110 ++ natBits 7 b.toNat)
  | .dcy8 b => .bits (natBits 7 0b1111110 ++ natBits 8 b.toNat)
  | .dcc0 => .bits (natBits 2 0b00)
  | .dcc1 b => .bits (natBits 2 0b01 ++ natBits 1 b.toNat)
  | .dcc2 b => .bits (natBits 2 0b10 ++ natBits 2 b.toNat)
  | .dcc3 b => .bits (natBits 3 0b110 ++ natBits 3 b.toNat)
  | .dcc4 b => .bits (natBits 4 0b1110 ++ natBits 4 b.toNat)
  | .dcc5 b => .bits (natBits 5 0b11110 ++ natBits 5 b.toNat)
  | .dcc6 b => .bits (natBits 6 0b111110 ++ natBits 6 b.toNat)
  | .dcc7 b => .bits (natBits 7 0b1111110 ++ natBits 7 b.toNat)
  | .dcc8 b => .bits (natBits 8 0b11111110 ++ natBits 8 b.toNat)
  | .segHdr length typeId quant version =>
    .bytes (natBytes 2 length.toNat ++ natBytes 2 typeId.toNat ++ natBytes 2 quant.toNat ++ natBytes 2 version.toNat)
  | .tiledTex magic typ => .bytes (natBytes 4 magic.toNat ++ natBytes 4 typ.toNat)
  | .rawChunk => .bytes (natBytes 4 (~~~c.texMagic).toNat ++ natBytes 4 0)
  | .texPrefix p => .bytes (natBytes 2 p.toNat)
  | .start mode reorg srcErr => .word (hostWord true mode reorg srcErr)
  | .ctrlSet mode reorg srcErr => .word (hostWord false mode reorg srcErr)

/-- What follows an item in its stream or record, and is not read with it. -/
def Code.followedBy : Code → List Bool → List Byte → Code
  | .bits b, moreBits, _ => .bits (b ++ moreBits)
  | .bytes b, _, moreBytes => .bytes (b ++ moreBytes)
  | .word w, _, _ => .word w

end Sys2Proof
end

