-- ==== Sys2Proof/Machine/State.lean ====
section
/-! DEFINITION. The machine's state as plain data: the host registers (10_state.md R31 to R35), the engine state (R36 to
R47), the IN space (R70), and the model's own fields for what the spec leaves to the outside: the host's pending
actions, the value its last register read returned, the artifacts it accepted, and a counter of draws. -/

namespace Sys2Proof.Machine

/-- Why the machine stops with a fault. The spec gives the CORE no trap (R336); both stand for an access to an IN address
that the spec says does not exist, and no run reaches the first. -/
inductive Fault where
  /-- RAW_CHUNK with fewer than 163840 bytes between CUR and IN_LEN: its pixels would be read outside IN (R12). Raised by
  execRawChunk; the classifier never issues it (R284). Safe. -/
  | readOutsideInput
  /-- An InWrite at an address that no input of IN_MAX bytes has (R70). Raised by the host action InWrite. Safe. -/
  | writeOutsideInput
  deriving DecidableEq, Repr

/-- Why a step is refused. -/
inductive Refusal where
  /-- An instruction without a meaning yet. Raised by exec alone. Safe. -/
  | notModelled (mnemonic : String)
  /-- A host register access that is not a whole, aligned 32-bit word, or falls outside 0x00..0x3C (R68). Raised by the
  host actions RegWrite and RegRead. Safe. -/
  | registerAccess
  /-- An InWrite while STATUS.BUSY = 1 (R380). Raised by the host action InWrite. Safe. -/
  | inputBusy
  /-- An Accept that can never be enabled: no artifact waits and no run is in progress (R310, R311). Raised by the host
  action Accept. Safe. -/
  | acceptNotEnabled
  deriving DecidableEq, Repr

/-- The IN space: address and byte pairs, addresses strictly rising, no byte equal to what an unlisted address reads as
(Machine/Memory.lean). -/
abbrev Memory := List Host.Cell

/-- CTRL without START, which reads 0 (R32). -/
structure Ctrl where
  /-- MODE: false is the tiled framer, true the segmented framer. -/
  mode : Bool
  reorg : Bool
  srcErr : Bool
  deriving DecidableEq, Repr

/-- STATUS.END_REASON (R33): exactly the seven values 0 to 6. -/
inductive EndReason where
  | none | endOfInput | formatMismatch | terminalChunk | vlcMismatch | ioError | allocFailure
  deriving DecidableEq, Repr

/-- STATUS (R33). Its reserved bits read 0 and hold nothing. -/
structure Status where
  busy : Bool
  done : Bool
  success : Bool
  fatal : Bool
  hold : Bool
  endReason : EndReason
  deriving DecidableEq, Repr

/-- PHASE (R36). -/
inductive Phase where
  | idle | startCheck | tiled | segHdr | segDecode | segProbe | ended
  deriving DecidableEq, Repr

/-- Which step of a phase comes next, where R292 gives the phase a sequence of steps. -/
inductive Stage where
  /-- The first step of a phase. -/
  | first
  /-- TILED: Advance(), after the Accept of an image (R286). -/
  | advance
  /-- TILED: the end of the run, after the Accept of the terminal artifact (R285, R288). -/
  | terminal
  /-- SEG_DECODE: the DC item of block BLK (R190). -/
  | dcItem
  /-- SEG_DECODE: one AC item (R191). -/
  | acItem
  /-- SEG_DECODE: reconstruct block BLK (R295). -/
  | reconstruct
  /-- SEG_DECODE: merge and place macroblock MB (R230, R260). -/
  | mergePlace
  /-- SEG_DECODE: emit the frame (R296). -/
  | emitFrame
  /-- SEG_DECODE: go to SEG_PROBE, after the Accept of the frame (R296). -/
  | toProbe
  deriving DecidableEq, Repr

/-- The current segment header (R38). -/
structure Header where
  length : Half
  typeId : Half
  quant : Half
  version : Half
  flat : Bool
  deriving DecidableEq, Repr

/-- The bit cursor (R39), in its register form. -/
structure Cursor where
  /-- SR, the 32-bit shift register. -/
  sr : BitVec 32
  /-- AVAIL, signed: 1..16 at rest. -/
  avail : Int
  /-- WPTR, the byte address of the next word to pull. -/
  wptr : Nat
  /-- SRC_BASE. -/
  srcBase : Nat
  /-- SRC_END. -/
  srcEnd : Nat
  /-- BITPOS, the bits consumed since CursorInit. -/
  bitpos : Nat
  deriving DecidableEq, Repr

/-- The three DC predictors (R40, R170). -/
structure Pred where
  y : Int
  cb : Int
  cr : Int
  deriving DecidableEq, Repr

/-- BPIX: 64 samples for each block role (R44). -/
structure BlockPixels where
  y0 : List Int
  y1 : List Int
  y2 : List Int
  y3 : List Int
  cb : List Int
  cr : List Int
  deriving DecidableEq, Repr

/-- An artifact with its output index (R281). -/
inductive Artifact where
  | image (index : Word) (pixels : List Half) (width height bitsPerPixel : Nat)
  | nativeTexture (index : Word) (bytes : List Byte)
  | rawVerbatim (index : Word) (bytes : List Byte)
  deriving DecidableEq, Repr

/-- The host's actions (R310) and the reset input (R370). `engine` gives the engine's own action Step the next turn. -/
inductive HostAction where
  /-- RegWrite: `width` bytes of `v` at byte offset `off`. -/
  | regWrite (off width : Nat) (v : Word)
  | regRead (off width : Nat)
  | accept
  | inWrite (addr : Nat) (b : Byte)
  | reset
  | engine
  deriving DecidableEq, Repr

structure State where
  /-- The implementation parameters (R7); no step changes them. -/
  cfg : Config
  ctrl : Ctrl
  status : Status
  /-- IN_LEN (R34). -/
  inLen : Word
  outCount : Word
  segCount : Word
  oorCount : Word
  overrunCount : Word
  segcapCount : Word
  endPos : Word
  endInfo : Word
  phase : Phase
  stage : Stage
  /-- CUR, the byte offset of the chunk or segment (R37). -/
  cur : Nat
  hdr : Header
  cursor : Cursor
  pred : Pred
  /-- BLK, 0..5 (R41). -/
  blk : Nat
  /-- MB (R41). -/
  mb : Nat
  /-- K, 0..64 (R42). -/
  k : Nat
  /-- LEVEL, by zig-zag position (R42). -/
  level : List Int
  /-- QTAG (R42, R169). -/
  qtag : Half
  /-- ENTRY_COUNT (R43). -/
  entryCount : Nat
  /-- The mark of a block under OOR_POLICY = poison (R197). -/
  poisoned : Bool
  bpix : BlockPixels
  /-- TILE, 16 by 16, row-major (R44). -/
  tile : List Half
  /-- FRAME, row-major (R45); a pixel past the list reads 0. -/
  frame : List Half
  /-- PENDING, the output port (R47). -/
  pending : Option Artifact
  /-- The IN space (R70). -/
  mem : Memory
  /-- The model's own: the host's actions to come, first the next (R310). -/
  host : List HostAction
  /-- The model's own: what the host's last RegRead returned. -/
  readData : Word
  /-- The model's own: the artifacts the host accepted, in order (the OUT space of R70). -/
  out : List Artifact
  /-- The model's own: how many free samples were drawn (R234). -/
  draws : Nat
  deriving DecidableEq, Repr

/-- The outcome of an instruction or a step. -/
abbrev Result := Host.Outcome State Fault Refusal

/-- The machine right after reset (R371), with IN as it is at power-on. An element whose reset value the spec leaves
unspecified holds the value of notes/assumptions/2.md (zero, false, or a list of zeros). -/
def State.reset : State where
  cfg := referenceConfig
  ctrl := { mode := false, reorg := true, srcErr := false }
  status := { busy := false, done := false, success := false, fatal := false, hold := false, endReason := .none }
  inLen := 0
  outCount := 0
  segCount := 0
  oorCount := 0
  overrunCount := 0
  segcapCount := 0
  endPos := 0
  endInfo := 0
  phase := .idle
  stage := .first
  cur := 0
  hdr := { length := 0, typeId := 0, quant := 0, version := 0, flat := false }
  cursor := { sr := 0, avail := 0, wptr := 0, srcBase := 0, srcEnd := 0, bitpos := 0 }
  pred := { y := 0, cb := 0, cr := 0 }
  blk := 0
  mb := 0
  k := 0
  level := List.replicate 64 0
  qtag := 0
  entryCount := 0
  poisoned := false
  bpix :=
    { y0 := List.replicate 64 0, y1 := List.replicate 64 0, y2 := List.replicate 64 0, y3 := List.replicate 64 0,
      cb := List.replicate 64 0, cr := List.replicate 64 0 }
  tile := List.replicate 256 0
  frame := []
  pending := none
  mem := []
  host := []
  readData := 0
  out := []
  draws := 0

end Sys2Proof.Machine
end

