-- ==== Sys2Proof/Machine/Memory.lean ====
section
/-! DEFINITION. The IN space (20_memory.md): a byte-addressed buffer that only the host writes (R70, R78). -/

namespace Sys2Proof.Machine

/-- What a byte of IN that nothing has written reads as. The spec gives none (R371: unspecified at power-on);
DESIGN CHOICE, notes/assumptions/3.md. -/
def unlistedByte : Byte := 0

/-- InByte(a) (R12). -/
def Memory.read : Memory → Nat → Byte
  | [], _ => unlistedByte
  | (x, b) :: m, a => if a < x then unlistedByte else if a = x then b else Memory.read m a

/-- Store one byte, keeping the canonical form. -/
def Memory.write : Memory → Nat → Byte → Memory
  | [], a, v => if v = unlistedByte then [] else [(a, v)]
  | (x, b) :: m, a, v =>
    if a < x then (if v = unlistedByte then (x, b) :: m else (a, v) :: (x, b) :: m)
    else if a = x then (if v = unlistedByte then m else (a, v) :: m)
    else (x, b) :: Memory.write m a v

/-- The canonical form from address `lo` on. -/
def Memory.wfFrom : Nat → Memory → Bool
  | _, [] => true
  | lo, (x, b) :: m => decide (lo ≤ x) && decide (b ≠ unlistedByte) && Memory.wfFrom (x + 1) m

/-- The canonical form: addresses strictly rising, no byte equal to what an unlisted address reads as. -/
def Memory.wf (m : Memory) : Bool := Memory.wfFrom 0 m

/-- Store the bytes of a list from address `a` on. -/
def Memory.writeAll : Memory → Nat → List Byte → Memory
  | m, _, [] => m
  | m, a, b :: r => Memory.writeAll (Memory.write m a b) (a + 1) r

/-- The `n` bytes from address `a` on. -/
def Memory.bytes (m : Memory) (a n : Nat) : List Byte := (List.range n).map fun i => m.read (a + i)

/-- MemRead(a, n) (R12, R72): the little-endian value of `n` bytes. -/
def Memory.memRead (m : Memory) (a n : Nat) : Nat := leNat (m.bytes a n)

end Sys2Proof.Machine
end

