-- ==== Sys2Proof/Machine/Cursor.lean ====
section
/-! DEFINITION. The bit cursor (40_bitcursor.md), in its register form. -/

namespace Sys2Proof.Machine

/-- A byte of the source region, 0 past its end (R141). -/
def srcByte (m : Memory) (srcEnd a : Nat) : Nat := if a < srcEnd then (m.read a).toNat else 0

/-- SrcWord(i) (R141, R76). -/
def srcWord (m : Memory) (base srcEnd i : Nat) : Nat :=
  srcByte m srcEnd (base + 2 * i) + 256 * srcByte m srcEnd (base + 2 * i + 1)

/-- StreamBit(p) (R148, R73). -/
def streamBit (m : Memory) (base srcEnd p : Nat) : Bool :=
  (srcWord m base srcEnd (p / 16)).testBit (15 - p % 16)

/-- ByteOfBit(p) (R148). -/
def byteOfBit (base p : Nat) : Nat := base + 2 * (p / 16) + (if p % 16 < 8 then 1 else 0)

/-- CursorInit(base, end) (R140). -/
def Cursor.init (m : Memory) (base srcEnd : Nat) : Cursor where
  sr := BitVec.ofNat 32 (srcWord m base srcEnd 0 * 65536 + srcWord m base srcEnd 1)
  avail := 16
  wptr := base + 4
  srcBase := base
  srcEnd := srcEnd
  bitpos := 0

/-- Peek(n) = SR[31 : 32 - n] (R143). -/
def Cursor.peek (c : Cursor) (n : Nat) : Nat := (c.sr >>> (32 - n)).toNat

/-- Refill (R146). -/
def Cursor.refill (m : Memory) (c : Cursor) : Cursor :=
  if c.avail ≤ 0 then
    { c with
      sr := c.sr ||| (BitVec.ofNat 32 (srcWord m c.srcBase c.srcEnd ((c.wptr - c.srcBase) / 2)) <<< (-c.avail).toNat)
      wptr := c.wptr + 2
      avail := c.avail + 16 }
  else c

/-- The cursor's part of Consume(n) (R142). -/
def Cursor.advance (m : Memory) (n : Nat) (c : Cursor) : Cursor :=
  Cursor.refill m { c with sr := c.sr <<< n, avail := c.avail - n, bitpos := c.bitpos + n }

/-- Consume(n) takes at least one bit past the end of the region (R142, R145, R148). -/
def Cursor.overruns (c : Cursor) (n : Nat) : Bool :=
  (List.range n).any fun i => decide (c.srcEnd ≤ byteOfBit c.srcBase (c.bitpos + i))

/-- The next 16 `blocks` of bits, first stream bit first, as successive Peek(16) and Consume(16) see them. -/
def Cursor.ahead (m : Memory) : Nat → Cursor → List Bool
  | 0, _ => []
  | blocks + 1, c => natBits 16 (c.peek 16) ++ Cursor.ahead m blocks (c.advance m 16)

end Sys2Proof.Machine
end

