-- ==== Sys2Proof/Machine/Flags.lean ====
section
/-! DEFINITION. The CORE's only flags are the fields of STATUS (R33); here stand the words the host reads (R32, R33),
the saturating counters and the reports (R35, R334), and what the end of a run writes into STATUS (R301). -/

namespace Sys2Proof.Machine

/-- Add one, saturating at 0xFFFFFFFF (R35). -/
def satInc (c : Word) : Word := if c = 0xFFFFFFFF then c else c + 1

/-- The code of an end reason (R33). -/
def EndReason.code : EndReason → Nat
  | .none => 0
  | .endOfInput => 1
  | .formatMismatch => 2
  | .terminalChunk => 3
  | .vlcMismatch => 4
  | .ioError => 5
  | .allocFailure => 6

/-- IO_ERROR and ALLOC_FAILURE are the fatal reasons (R301, R330). -/
def EndReason.isFatal : EndReason → Bool
  | .ioError | .allocFailure => true
  | _ => false

/-- CTRL as the host reads it: START reads 0, bits 31:4 read 0 (R32). -/
def Ctrl.word (c : Ctrl) : Word :=
  BitVec.ofNat 32 (2 * c.mode.toNat + 4 * c.reorg.toNat + 8 * c.srcErr.toNat)

/-- STATUS as the host reads it (R33). -/
def Status.word (s : Status) : Word :=
  BitVec.ofNat 32 (s.busy.toNat + 2 * s.done.toNat + 4 * s.success.toNat + 8 * s.fatal.toNat + 16 * s.hold.toNat
    + 256 * s.endReason.code)

/-- STATUS after START (R282): BUSY = 1, all other fields 0. -/
def startedStatus : Status :=
  { busy := true, done := false, success := false, fatal := false, hold := false, endReason := .none }

/-- STATUS after RunEnd(reason) with `outCount` artifacts emitted (R301). -/
def endedStatus (reason : EndReason) (outCount : Word) : Status where
  busy := false
  done := true
  success := decide (1 ≤ outCount.toNat) && !reason.isFatal
  fatal := reason.isFatal
  hold := false
  endReason := reason

/-- END_INFO of a VLC mismatch: (BLK << 16) | trunc_16(MB) (R35, R167, R195). -/
def mismatchInfo (blk mb : Nat) : Word := BitVec.ofNat 32 (blk * 65536 + mb % 65536)

end Sys2Proof.Machine
end

