-- ==== Sys2Proof/Machine/Operands.lean ====
section
/-! DEFINITION. How operands are formed: clamps and divisions on integers (R10), the signs of the code fields (R103,
R107, R109), the DC literal (R106), and the derived parameters of a machine (R41, R161). -/

namespace Sys2Proof

/-- `chan(r)` of R161. -/
def Role.channel : Role → Channel
  | .y0 | .y1 | .y2 | .y3 => .y
  | .cb => .cb
  | .cr => .cr

/-- MB_COUNT (R41). -/
def Config.mbCount (c : Config) : Nat := (c.frameW / 16) * (c.frameH / 16)

/-- BLOCK_ROLE(blk) (R161). -/
def Config.role (c : Config) (blk : Nat) : Role := c.blockRole.getD blk .y0

namespace Machine

/-- clamp(v, lo, hi) (R10). -/
def clamp (v lo hi : Int) : Int := if v < lo then lo else if hi < v then hi else v

/-- a >> n on a signed integer: the arithmetic shift, floor(a / 2^n) (R10). -/
def asr (a : Int) (n : Nat) : Int := a / 2 ^ n

/-- ceil_div(a, b) (R10). -/
def ceilDiv (a b : Nat) : Nat := (a + b - 1) / b

/-- The level of an AC_VLC item: the magnitude, negative when the sign bit is 1 (R107). -/
def signedLevel (neg : Bool) (mag : Nat) : Int := if neg then -(mag : Int) else (mag : Int)

/-- The delta of a DC_PRED item under the candidate: `b` if its top bit is 1, else b - (2^size - 1) (R106). -/
def dcDelta (size b : Nat) : Int :=
  if size = 0 then 0 else if b.testBit (size - 1) then (b : Int) else (b : Int) - (2 ^ size - 1)

/-- The predictor of a channel (R40). -/
def Pred.get (p : Pred) : Channel → Int
  | .y => p.y
  | .cb => p.cb
  | .cr => p.cr

/-- Write the predictor of a channel. -/
def Pred.set (p : Pred) (c : Channel) (v : Int) : Pred :=
  match c with
  | .y => { p with y := v }
  | .cb => { p with cb := v }
  | .cr => { p with cr := v }

/-- The three predictors cleared (R160). -/
def Pred.zero : Pred := { y := 0, cb := 0, cr := 0 }

/-- The samples of a role (R44). -/
def BlockPixels.get (b : BlockPixels) : Role → List Int
  | .y0 => b.y0
  | .y1 => b.y1
  | .y2 => b.y2
  | .y3 => b.y3
  | .cb => b.cb
  | .cr => b.cr

/-- Write the samples of a role. -/
def BlockPixels.set (b : BlockPixels) (r : Role) (v : List Int) : BlockPixels :=
  match r with
  | .y0 => { b with y0 := v }
  | .y1 => { b with y1 := v }
  | .y2 => { b with y2 := v }
  | .y3 => { b with y3 := v }
  | .cb => { b with cb := v }
  | .cr => { b with cr := v }

/-- The role of the current block (R161). -/
def State.role (s : State) : Role := s.cfg.role s.blk

/-- The channel of the current block (R161). -/
def State.channel (s : State) : Channel := s.role.channel

end Machine

end Sys2Proof
end

