-- ==== Sys2Proof/Machine/Ops.lean ====
section
/-! DEFINITION. The named operations that instructions share. The CORE has no trap entry and no return (R336, R337): the
one operation that ends a run, for a benign end and for a fatal error, is `runEnd` (R301). -/

namespace Sys2Proof.Machine

/-! The stream. -/

/-- Consume(n), with the Overrun report (R142, R145). -/
def consume (n : Nat) (s : State) : State :=
  { s with
    cursor := s.cursor.advance s.mem n
    overrunCount := if s.cursor.overruns n then satInc s.overrunCount else s.overrunCount }

/-- The widths of the Consumes that take a code word of `len` bits: one Consume, or for more than 16 bits pieces of at most
16 (R164). DESIGN CHOICE: R164 does not say where such a code is cut, and the model takes pieces of 16 bits first and
the rest last (notes/assumptions/27.md). The cut is seen in OVERRUN_COUNT alone, where each
Consume is reported (R145). -/
def consumePieces (len : Nat) : List Nat := List.replicate ((len - 1) / 16) 16 ++ [len - 16 * ((len - 1) / 16)]

/-- The Consumes of one item, of the widths `ws` in stream order, each with its own Overrun report (R145). Under the option
`perItem`, which no machine at reset has, OVERRUN_COUNT is incremented once for the item (notes/assumptions/8.md). -/
def consumeItem (ws : List Nat) (s : State) : State :=
  let t := ws.foldl (fun u n => consume n u) s
  match s.cfg.overrunReports with
  | .perConsume => t
  | .perItem =>
    { t with overrunCount := if s.cursor.overruns ws.sum then satInc s.overrunCount else s.overrunCount }

/-! The coefficient block. -/

/-- ENTRY_COUNT passes SEG_ENTRY_CAPACITY (R198). -/
def pastCapacity (c : Config) (count : Nat) : Bool :=
  match c.segEntryCapacity with
  | none => false
  | some cap => decide (cap < count)

/-- ENTRY_COUNT <- ENTRY_COUNT + 1; CapCheck() (R198). -/
def countEntry (s : State) : State :=
  { s with
    entryCount := s.entryCount + 1
    segcapCount := if pastCapacity s.cfg (s.entryCount + 1) then satInc s.segcapCount else s.segcapCount }

/-- The start of a block (R190), with the predictor reset of DC_RESET_PER_MB before it (R168, R295). -/
def blockStart (s : State) : State :=
  { s with
    level := List.replicate 64 0
    k := 0
    poisoned := false
    pred := if s.cfg.dcResetPerMb && decide (s.blk = 0) then Pred.zero else s.pred }

/-- Store the DC term, attach the quant scale, count the entry and go on with the AC items (R162, R169, R190). -/
def dcStore (v : Int) (s : State) : State :=
  countEntry { s with level := s.level.set 0 v, qtag := s.hdr.quant, stage := .acItem }

/-- PRED[c] <- PRED[c] + 4 * delta; LEVEL[0] <- PRED[c] (R164, R166). -/
def dcPredict (c : Channel) (delta : Int) (s : State) : State :=
  dcStore (s.pred.get c + 4 * delta) { s with pred := s.pred.set c (s.pred.get c + 4 * delta) }

/-- DC_FLAT: the 10-bit literal of value `v` (R163, R190). -/
def dcFlatItem (v : Int) (s : State) : State := dcStore v (consumeItem [10] (blockStart s))

/-- DC_PRED under the candidate: the size code, then the `size`-bit literal `b` (R164, R105, R106). -/
def dcPredItem (c : Channel) (codeLen size b : Nat) (s : State) : State :=
  dcPredict c (dcDelta size b) (consumeItem (if size = 0 then [codeLen] else [codeLen, size]) (blockStart s))

/-- DC_PRED under another DC_CODE: a code word of `len` bits that stands for `delta` (R164). -/
def dcCodeItem (c : Channel) (delta : Int) (len : Nat) (s : State) : State :=
  dcPredict c delta (consumeItem (consumePieces len) (blockStart s))

/-- The next coefficient position, 64 when past capacity (R196). -/
def nextK (k run : Nat) : Nat := if k = 64 ∨ 63 < k + run + 1 then 64 else k + run + 1

/-- AdvanceStore(run, level) (R196, R197). -/
def advanceStore (run : Nat) (level : Int) (s : State) : State :=
  let k2 := nextK s.k run
  countEntry
    { s with
      level := if k2 = 64 then s.level else s.level.set k2 level
      k := k2
      oorCount := if k2 = 64 then satInc s.oorCount else s.oorCount
      poisoned := s.poisoned || (decide (k2 = 64) && decide (s.cfg.oorPolicy = .poison)) }

/-- An AC_VLC item: the code, the sign bit, then AdvanceStore (R192). -/
def acVlcItem (codeLen run mag : Nat) (neg : Bool) (s : State) : State :=
  advanceStore run (signedLevel neg mag) (consumeItem (consumePieces codeLen ++ [1]) s)

/-- An AC_ESC item: the code, the 6-bit run, the 11-bit level, then AdvanceStore (R193), for every run and level. A pair that
the table can express has the effect of the table's code (R121). -/
def acEscItem (codeLen : Nat) (run : BitVec 6) (level : BitVec 11) (s : State) : State :=
  advanceStore run.toNat level.toInt (consumeItem (consumePieces codeLen ++ [6, 11]) s)

/-- An AC_EOB item (R194): the block is complete. -/
def acEobItem (codeLen : Nat) (s : State) : State :=
  let s1 := countEntry (consumeItem (consumePieces codeLen) s)
  { s1 with stage := .reconstruct }

/-! The output port and the end of a run. -/

/-- emit X (R280): `x` is the artifact less its index. -/
def emit (x : Word → Artifact) (s : State) : State :=
  { s with
    pending := some (x s.outCount)
    outCount := satInc s.outCount
    status := { s.status with hold := true } }

/-- min(CUR, IN_LEN) (R301). -/
def endPosition (s : State) : Word := BitVec.ofNat 32 (min s.cur s.inLen.toNat)

/-- RunEnd(reason): the meaning of `end` and of `raise` (R301, R14). -/
def runEnd (reason : EndReason) (s : State) : State :=
  { s with
    status := endedStatus reason s.outCount
    endPos := if reason.isFatal then 0 else endPosition s
    phase := .ended
    stage := .first }

/-- A DC or AC mismatch: END_INFO, then `end VLC_MISMATCH` (R167, R195, R301). -/
def vlcMismatch (s : State) : State :=
  runEnd .vlcMismatch { s with endInfo := mismatchInfo s.blk s.mb }

/-- SEG_COUNT <- SEG_COUNT + 1 (R284, R293). -/
def countSegment (s : State) : State := { s with segCount := satInc s.segCount }

/-- NextSegment() (R299). -/
def nextSegment (s : State) : State :=
  { s with cur := s.cur + 65536, phase := .segHdr, stage := .first }

/-! The texture probe. -/

/-- P, the probe offset (R297). -/
def probeOffset (s : State) : Nat := s.cur + 8 + 2 * ceilDiv s.cursor.bitpos 16

/-- E, the segment end (R298). -/
def segmentEnd (s : State) : Nat := min (s.cur + 65536) s.inLen.toNat

/-- TEX_RECORD(IN[P .. E-1], P) (R300). -/
def texRecordAt (c : Config) (bytes : List Byte) (p : Nat) : Option (Nat × Nat) :=
  match c.texRecord with
  | .lengthField off width unit bias start =>
    if off + width ≤ bytes.length then some (((p : Int) + start).toNat, byteField bytes off width * unit + bias) else none
  | .free => Config.freeTexRecord bytes p

/-- TextureRecord(P) (R300, R306). -/
def textureRecord (p : Nat) (s : State) : State :=
  match texRecordAt s.cfg (s.mem.bytes p (segmentEnd s - p)) p with
  | none => s
  | some (start, len) =>
    if len = 0 then s
    else if p ≤ start ∧ start + len ≤ segmentEnd s then emit (fun i => .nativeTexture i (s.mem.bytes start len)) s
    else { s with overrunCount := satInc s.overrunCount }

end Sys2Proof.Machine
end

