-- ==== Sys2Proof/Machine/Ac.lean ====
section
/-! DEFINITION. The meanings of the AC items (42_vlc_ac.md): the 111 rows of AC_TABLE (R110, R192), the escape (R193) and
the end of block (R194). A row's numbers are its code length, run and magnitude in R110. -/

namespace Sys2Proof.Machine

/-- AC_VLC `11s` (R192). -/
def execAcR0L1 (neg : Bool) (s : State) : Result := .next (acVlcItem 2 0 1 neg s)

/-- AC_VLC `011s` (R192). -/
def execAcR1L1 (neg : Bool) (s : State) : Result := .next (acVlcItem 3 1 1 neg s)

/-- AC_VLC `0100s` (R192). -/
def execAcR0L2 (neg : Bool) (s : State) : Result := .next (acVlcItem 4 0 2 neg s)

/-- AC_VLC `0101s` (R192). -/
def execAcR2L1 (neg : Bool) (s : State) : Result := .next (acVlcItem 4 2 1 neg s)

/-- AC_VLC `00101s` (R192). -/
def execAcR0L3 (neg : Bool) (s : State) : Result := .next (acVlcItem 5 0 3 neg s)

/-- AC_VLC `00111s` (R192). -/
def execAcR3L1 (neg : Bool) (s : State) : Result := .next (acVlcItem 5 3 1 neg s)

/-- AC_VLC `00110s` (R192). -/
def execAcR4L1 (neg : Bool) (s : State) : Result := .next (acVlcItem 5 4 1 neg s)

/-- AC_VLC `000110s` (R192). -/
def execAcR1L2 (neg : Bool) (s : State) : Result := .next (acVlcItem 6 1 2 neg s)

/-- AC_VLC `000111s` (R192). -/
def execAcR5L1 (neg : Bool) (s : State) : Result := .next (acVlcItem 6 5 1 neg s)

/-- AC_VLC `000101s` (R192). -/
def execAcR6L1 (neg : Bool) (s : State) : Result := .next (acVlcItem 6 6 1 neg s)

/-- AC_VLC `000100s` (R192). -/
def execAcR7L1 (neg : Bool) (s : State) : Result := .next (acVlcItem 6 7 1 neg s)

/-- AC_VLC `0000110s` (R192). -/
def execAcR0L4 (neg : Bool) (s : State) : Result := .next (acVlcItem 7 0 4 neg s)

/-- AC_VLC `0000100s` (R192). -/
def execAcR2L2 (neg : Bool) (s : State) : Result := .next (acVlcItem 7 2 2 neg s)

/-- AC_VLC `0000111s` (R192). -/
def execAcR8L1 (neg : Bool) (s : State) : Result := .next (acVlcItem 7 8 1 neg s)

/-- AC_VLC `0000101s` (R192). -/
def execAcR9L1 (neg : Bool) (s : State) : Result := .next (acVlcItem 7 9 1 neg s)

/-- AC_VLC `00100110s` (R192). -/
def execAcR0L5 (neg : Bool) (s : State) : Result := .next (acVlcItem 8 0 5 neg s)

/-- AC_VLC `00100001s` (R192). -/
def execAcR0L6 (neg : Bool) (s : State) : Result := .next (acVlcItem 8 0 6 neg s)

/-- AC_VLC `00100101s` (R192). -/
def execAcR1L3 (neg : Bool) (s : State) : Result := .next (acVlcItem 8 1 3 neg s)

/-- AC_VLC `00100100s` (R192). -/
def execAcR3L2 (neg : Bool) (s : State) : Result := .next (acVlcItem 8 3 2 neg s)

/-- AC_VLC `00100111s` (R192). -/
def execAcR10L1 (neg : Bool) (s : State) : Result := .next (acVlcItem 8 10 1 neg s)

/-- AC_VLC `00100011s` (R192). -/
def execAcR11L1 (neg : Bool) (s : State) : Result := .next (acVlcItem 8 11 1 neg s)

/-- AC_VLC `00100010s` (R192). -/
def execAcR12L1 (neg : Bool) (s : State) : Result := .next (acVlcItem 8 12 1 neg s)

/-- AC_VLC `00100000s` (R192). -/
def execAcR13L1 (neg : Bool) (s : State) : Result := .next (acVlcItem 8 13 1 neg s)

/-- AC_VLC `0000001010s` (R192). -/
def execAcR0L7 (neg : Bool) (s : State) : Result := .next (acVlcItem 10 0 7 neg s)

/-- AC_VLC `0000001100s` (R192). -/
def execAcR1L4 (neg : Bool) (s : State) : Result := .next (acVlcItem 10 1 4 neg s)

/-- AC_VLC `0000001011s` (R192). -/
def execAcR2L3 (neg : Bool) (s : State) : Result := .next (acVlcItem 10 2 3 neg s)

/-- AC_VLC `0000001111s` (R192). -/
def execAcR4L2 (neg : Bool) (s : State) : Result := .next (acVlcItem 10 4 2 neg s)

/-- AC_VLC `0000001001s` (R192). -/
def execAcR5L2 (neg : Bool) (s : State) : Result := .next (acVlcItem 10 5 2 neg s)

/-- AC_VLC `0000001110s` (R192). -/
def execAcR14L1 (neg : Bool) (s : State) : Result := .next (acVlcItem 10 14 1 neg s)

/-- AC_VLC `0000001101s` (R192). -/
def execAcR15L1 (neg : Bool) (s : State) : Result := .next (acVlcItem 10 15 1 neg s)

/-- AC_VLC `0000001000s` (R192). -/
def execAcR16L1 (neg : Bool) (s : State) : Result := .next (acVlcItem 10 16 1 neg s)

/-- AC_VLC `000000011101s` (R192). -/
def execAcR0L8 (neg : Bool) (s : State) : Result := .next (acVlcItem 12 0 8 neg s)

/-- AC_VLC `000000011000s` (R192). -/
def execAcR0L9 (neg : Bool) (s : State) : Result := .next (acVlcItem 12 0 9 neg s)

/-- AC_VLC `000000010011s` (R192). -/
def execAcR0L10 (neg : Bool) (s : State) : Result := .next (acVlcItem 12 0 10 neg s)

/-- AC_VLC `000000010000s` (R192). -/
def execAcR0L11 (neg : Bool) (s : State) : Result := .next (acVlcItem 12 0 11 neg s)

/-- AC_VLC `000000011011s` (R192). -/
def execAcR1L5 (neg : Bool) (s : State) : Result := .next (acVlcItem 12 1 5 neg s)

/-- AC_VLC `000000010100s` (R192). -/
def execAcR2L4 (neg : Bool) (s : State) : Result := .next (acVlcItem 12 2 4 neg s)

/-- AC_VLC `000000011100s` (R192). -/
def execAcR3L3 (neg : Bool) (s : State) : Result := .next (acVlcItem 12 3 3 neg s)

/-- AC_VLC `000000010010s` (R192). -/
def execAcR4L3 (neg : Bool) (s : State) : Result := .next (acVlcItem 12 4 3 neg s)

/-- AC_VLC `000000011110s` (R192). -/
def execAcR6L2 (neg : Bool) (s : State) : Result := .next (acVlcItem 12 6 2 neg s)

/-- AC_VLC `000000010101s` (R192). -/
def execAcR7L2 (neg : Bool) (s : State) : Result := .next (acVlcItem 12 7 2 neg s)

/-- AC_VLC `000000010001s` (R192). -/
def execAcR8L2 (neg : Bool) (s : State) : Result := .next (acVlcItem 12 8 2 neg s)

/-- AC_VLC `000000011111s` (R192). -/
def execAcR17L1 (neg : Bool) (s : State) : Result := .next (acVlcItem 12 17 1 neg s)

/-- AC_VLC `000000011010s` (R192). -/
def execAcR18L1 (neg : Bool) (s : State) : Result := .next (acVlcItem 12 18 1 neg s)

/-- AC_VLC `000000011001s` (R192). -/
def execAcR19L1 (neg : Bool) (s : State) : Result := .next (acVlcItem 12 19 1 neg s)

/-- AC_VLC `000000010111s` (R192). -/
def execAcR20L1 (neg : Bool) (s : State) : Result := .next (acVlcItem 12 20 1 neg s)

/-- AC_VLC `000000010110s` (R192). -/
def execAcR21L1 (neg : Bool) (s : State) : Result := .next (acVlcItem 12 21 1 neg s)

/-- AC_VLC `0000000011010s` (R192). -/
def execAcR0L12 (neg : Bool) (s : State) : Result := .next (acVlcItem 13 0 12 neg s)

/-- AC_VLC `0000000011001s` (R192). -/
def execAcR0L13 (neg : Bool) (s : State) : Result := .next (acVlcItem 13 0 13 neg s)

/-- AC_VLC `0000000011000s` (R192). -/
def execAcR0L14 (neg : Bool) (s : State) : Result := .next (acVlcItem 13 0 14 neg s)

/-- AC_VLC `0000000010111s` (R192). -/
def execAcR0L15 (neg : Bool) (s : State) : Result := .next (acVlcItem 13 0 15 neg s)

/-- AC_VLC `0000000010110s` (R192). -/
def execAcR1L6 (neg : Bool) (s : State) : Result := .next (acVlcItem 13 1 6 neg s)

/-- AC_VLC `0000000010101s` (R192). -/
def execAcR1L7 (neg : Bool) (s : State) : Result := .next (acVlcItem 13 1 7 neg s)

/-- AC_VLC `0000000010100s` (R192). -/
def execAcR2L5 (neg : Bool) (s : State) : Result := .next (acVlcItem 13 2 5 neg s)

/-- AC_VLC `0000000010011s` (R192). -/
def execAcR3L4 (neg : Bool) (s : State) : Result := .next (acVlcItem 13 3 4 neg s)

/-- AC_VLC `0000000010010s` (R192). -/
def execAcR5L3 (neg : Bool) (s : State) : Result := .next (acVlcItem 13 5 3 neg s)

/-- AC_VLC `0000000010001s` (R192). -/
def execAcR9L2 (neg : Bool) (s : State) : Result := .next (acVlcItem 13 9 2 neg s)

/-- AC_VLC `0000000010000s` (R192). -/
def execAcR10L2 (neg : Bool) (s : State) : Result := .next (acVlcItem 13 10 2 neg s)

/-- AC_VLC `0000000011111s` (R192). -/
def execAcR22L1 (neg : Bool) (s : State) : Result := .next (acVlcItem 13 22 1 neg s)

/-- AC_VLC `0000000011110s` (R192). -/
def execAcR23L1 (neg : Bool) (s : State) : Result := .next (acVlcItem 13 23 1 neg s)

/-- AC_VLC `0000000011101s` (R192). -/
def execAcR24L1 (neg : Bool) (s : State) : Result := .next (acVlcItem 13 24 1 neg s)

/-- AC_VLC `0000000011100s` (R192). -/
def execAcR25L1 (neg : Bool) (s : State) : Result := .next (acVlcItem 13 25 1 neg s)

/-- AC_VLC `0000000011011s` (R192). -/
def execAcR26L1 (neg : Bool) (s : State) : Result := .next (acVlcItem 13 26 1 neg s)

/-- AC_VLC `00000000011111s` (R192). -/
def execAcR0L16 (neg : Bool) (s : State) : Result := .next (acVlcItem 14 0 16 neg s)

/-- AC_VLC `00000000011110s` (R192). -/
def execAcR0L17 (neg : Bool) (s : State) : Result := .next (acVlcItem 14 0 17 neg s)

/-- AC_VLC `00000000011101s` (R192). -/
def execAcR0L18 (neg : Bool) (s : State) : Result := .next (acVlcItem 14 0 18 neg s)

/-- AC_VLC `00000000011100s` (R192). -/
def execAcR0L19 (neg : Bool) (s : State) : Result := .next (acVlcItem 14 0 19 neg s)

/-- AC_VLC `00000000011011s` (R192). -/
def execAcR0L20 (neg : Bool) (s : State) : Result := .next (acVlcItem 14 0 20 neg s)

/-- AC_VLC `00000000011010s` (R192). -/
def execAcR0L21 (neg : Bool) (s : State) : Result := .next (acVlcItem 14 0 21 neg s)

/-- AC_VLC `00000000011001s` (R192). -/
def execAcR0L22 (neg : Bool) (s : State) : Result := .next (acVlcItem 14 0 22 neg s)

/-- AC_VLC `00000000011000s` (R192). -/
def execAcR0L23 (neg : Bool) (s : State) : Result := .next (acVlcItem 14 0 23 neg s)

/-- AC_VLC `00000000010111s` (R192). -/
def execAcR0L24 (neg : Bool) (s : State) : Result := .next (acVlcItem 14 0 24 neg s)

/-- AC_VLC `00000000010110s` (R192). -/
def execAcR0L25 (neg : Bool) (s : State) : Result := .next (acVlcItem 14 0 25 neg s)

/-- AC_VLC `00000000010101s` (R192). -/
def execAcR0L26 (neg : Bool) (s : State) : Result := .next (acVlcItem 14 0 26 neg s)

/-- AC_VLC `00000000010100s` (R192). -/
def execAcR0L27 (neg : Bool) (s : State) : Result := .next (acVlcItem 14 0 27 neg s)

/-- AC_VLC `00000000010011s` (R192). -/
def execAcR0L28 (neg : Bool) (s : State) : Result := .next (acVlcItem 14 0 28 neg s)

/-- AC_VLC `00000000010010s` (R192). -/
def execAcR0L29 (neg : Bool) (s : State) : Result := .next (acVlcItem 14 0 29 neg s)

/-- AC_VLC `00000000010001s` (R192). -/
def execAcR0L30 (neg : Bool) (s : State) : Result := .next (acVlcItem 14 0 30 neg s)

/-- AC_VLC `00000000010000s` (R192). -/
def execAcR0L31 (neg : Bool) (s : State) : Result := .next (acVlcItem 14 0 31 neg s)

/-- AC_VLC `000000000011000s` (R192). -/
def execAcR0L32 (neg : Bool) (s : State) : Result := .next (acVlcItem 15 0 32 neg s)

/-- AC_VLC `000000000010111s` (R192). -/
def execAcR0L33 (neg : Bool) (s : State) : Result := .next (acVlcItem 15 0 33 neg s)

/-- AC_VLC `000000000010110s` (R192). -/
def execAcR0L34 (neg : Bool) (s : State) : Result := .next (acVlcItem 15 0 34 neg s)

/-- AC_VLC `000000000010101s` (R192). -/
def execAcR0L35 (neg : Bool) (s : State) : Result := .next (acVlcItem 15 0 35 neg s)

/-- AC_VLC `000000000010100s` (R192). -/
def execAcR0L36 (neg : Bool) (s : State) : Result := .next (acVlcItem 15 0 36 neg s)

/-- AC_VLC `000000000010011s` (R192). -/
def execAcR0L37 (neg : Bool) (s : State) : Result := .next (acVlcItem 15 0 37 neg s)

/-- AC_VLC `000000000010010s` (R192). -/
def execAcR0L38 (neg : Bool) (s : State) : Result := .next (acVlcItem 15 0 38 neg s)

/-- AC_VLC `000000000010001s` (R192). -/
def execAcR0L39 (neg : Bool) (s : State) : Result := .next (acVlcItem 15 0 39 neg s)

/-- AC_VLC `000000000010000s` (R192). -/
def execAcR0L40 (neg : Bool) (s : State) : Result := .next (acVlcItem 15 0 40 neg s)

/-- AC_VLC `000000000011111s` (R192). -/
def execAcR1L8 (neg : Bool) (s : State) : Result := .next (acVlcItem 15 1 8 neg s)

/-- AC_VLC `000000000011110s` (R192). -/
def execAcR1L9 (neg : Bool) (s : State) : Result := .next (acVlcItem 15 1 9 neg s)

/-- AC_VLC `000000000011101s` (R192). -/
def execAcR1L10 (neg : Bool) (s : State) : Result := .next (acVlcItem 15 1 10 neg s)

/-- AC_VLC `000000000011100s` (R192). -/
def execAcR1L11 (neg : Bool) (s : State) : Result := .next (acVlcItem 15 1 11 neg s)

/-- AC_VLC `000000000011011s` (R192). -/
def execAcR1L12 (neg : Bool) (s : State) : Result := .next (acVlcItem 15 1 12 neg s)

/-- AC_VLC `000000000011010s` (R192). -/
def execAcR1L13 (neg : Bool) (s : State) : Result := .next (acVlcItem 15 1 13 neg s)

/-- AC_VLC `000000000011001s` (R192). -/
def execAcR1L14 (neg : Bool) (s : State) : Result := .next (acVlcItem 15 1 14 neg s)

/-- AC_VLC `0000000000010011s` (R192). -/
def execAcR1L15 (neg : Bool) (s : State) : Result := .next (acVlcItem 16 1 15 neg s)

/-- AC_VLC `0000000000010010s` (R192). -/
def execAcR1L16 (neg : Bool) (s : State) : Result := .next (acVlcItem 16 1 16 neg s)

/-- AC_VLC `0000000000010001s` (R192). -/
def execAcR1L17 (neg : Bool) (s : State) : Result := .next (acVlcItem 16 1 17 neg s)

/-- AC_VLC `0000000000010000s` (R192). -/
def execAcR1L18 (neg : Bool) (s : State) : Result := .next (acVlcItem 16 1 18 neg s)

/-- AC_VLC `0000000000010100s` (R192). -/
def execAcR6L3 (neg : Bool) (s : State) : Result := .next (acVlcItem 16 6 3 neg s)

/-- AC_VLC `0000000000011010s` (R192). -/
def execAcR11L2 (neg : Bool) (s : State) : Result := .next (acVlcItem 16 11 2 neg s)

/-- AC_VLC `0000000000011001s` (R192). -/
def execAcR12L2 (neg : Bool) (s : State) : Result := .next (acVlcItem 16 12 2 neg s)

/-- AC_VLC `0000000000011000s` (R192). -/
def execAcR13L2 (neg : Bool) (s : State) : Result := .next (acVlcItem 16 13 2 neg s)

/-- AC_VLC `0000000000010111s` (R192). -/
def execAcR14L2 (neg : Bool) (s : State) : Result := .next (acVlcItem 16 14 2 neg s)

/-- AC_VLC `0000000000010110s` (R192). -/
def execAcR15L2 (neg : Bool) (s : State) : Result := .next (acVlcItem 16 15 2 neg s)

/-- AC_VLC `0000000000010101s` (R192). -/
def execAcR16L2 (neg : Bool) (s : State) : Result := .next (acVlcItem 16 16 2 neg s)

/-- AC_VLC `0000000000011111s` (R192). -/
def execAcR27L1 (neg : Bool) (s : State) : Result := .next (acVlcItem 16 27 1 neg s)

/-- AC_VLC `0000000000011110s` (R192). -/
def execAcR28L1 (neg : Bool) (s : State) : Result := .next (acVlcItem 16 28 1 neg s)

/-- AC_VLC `0000000000011101s` (R192). -/
def execAcR29L1 (neg : Bool) (s : State) : Result := .next (acVlcItem 16 29 1 neg s)

/-- AC_VLC `0000000000011100s` (R192). -/
def execAcR30L1 (neg : Bool) (s : State) : Result := .next (acVlcItem 16 30 1 neg s)

/-- AC_VLC `0000000000011011s` (R192). -/
def execAcR31L1 (neg : Bool) (s : State) : Result := .next (acVlcItem 16 31 1 neg s)

/-- AC_ESC (R193). -/
def execEsc (run : BitVec 6) (level : BitVec 11) (s : State) : Result := .next (acEscItem 6 run level s)

/-- AC_EOB (R194). -/
def execEob (s : State) : Result := .next (acEobItem 2 s)

end Sys2Proof.Machine
end

