-- ==== Sys2Proof/Machine/Dc.lean ====
section
/-! DEFINITION. The meanings of the DC items (41_vlc_dc.md). Each is the first step of its block (R190): the block's start,
the DC term, the quant tag and the DC entry. -/

namespace Sys2Proof.Machine

/-- DC_FLAT (R163). -/
def execDcf (d : BitVec 10) (s : State) : Result := .next (dcFlatItem d.toInt s)

/-- DC_PRED, luma, `100` and 0 literal bits (R164, R105). -/
def execDcy0 (s : State) : Result := .next (dcPredItem .y 3 0 0 s)

/-- DC_PRED, luma, `00` and 1 literal bits (R164, R105). -/
def execDcy1 (b : BitVec 1) (s : State) : Result := .next (dcPredItem .y 2 1 b.toNat s)

/-- DC_PRED, luma, `01` and 2 literal bits (R164, R105). -/
def execDcy2 (b : BitVec 2) (s : State) : Result := .next (dcPredItem .y 2 2 b.toNat s)

/-- DC_PRED, luma, `101` and 3 literal bits (R164, R105). -/
def execDcy3 (b : BitVec 3) (s : State) : Result := .next (dcPredItem .y 3 3 b.toNat s)

/-- DC_PRED, luma, `110` and 4 literal bits (R164, R105). -/
def execDcy4 (b : BitVec 4) (s : State) : Result := .next (dcPredItem .y 3 4 b.toNat s)

/-- DC_PRED, luma, `1110` and 5 literal bits (R164, R105). -/
def execDcy5 (b : BitVec 5) (s : State) : Result := .next (dcPredItem .y 4 5 b.toNat s)

/-- DC_PRED, luma, `11110` and 6 literal bits (R164, R105). -/
def execDcy6 (b : BitVec 6) (s : State) : Result := .next (dcPredItem .y 5 6 b.toNat s)

/-- DC_PRED, luma, `111110` and 7 literal bits (R164, R105). -/
def execDcy7 (b : BitVec 7) (s : State) : Result := .next (dcPredItem .y 6 7 b.toNat s)

/-- DC_PRED, luma, `1111110` and 8 literal bits (R164, R105). -/
def execDcy8 (b : BitVec 8) (s : State) : Result := .next (dcPredItem .y 7 8 b.toNat s)

/-- DC_PRED, chroma, `00` and 0 literal bits (R164, R105). -/
def execDcc0 (s : State) : Result := .next (dcPredItem s.channel 2 0 0 s)

/-- DC_PRED, chroma, `01` and 1 literal bits (R164, R105). -/
def execDcc1 (b : BitVec 1) (s : State) : Result := .next (dcPredItem s.channel 2 1 b.toNat s)

/-- DC_PRED, chroma, `10` and 2 literal bits (R164, R105). -/
def execDcc2 (b : BitVec 2) (s : State) : Result := .next (dcPredItem s.channel 2 2 b.toNat s)

/-- DC_PRED, chroma, `110` and 3 literal bits (R164, R105). -/
def execDcc3 (b : BitVec 3) (s : State) : Result := .next (dcPredItem s.channel 3 3 b.toNat s)

/-- DC_PRED, chroma, `1110` and 4 literal bits (R164, R105). -/
def execDcc4 (b : BitVec 4) (s : State) : Result := .next (dcPredItem s.channel 4 4 b.toNat s)

/-- DC_PRED, chroma, `11110` and 5 literal bits (R164, R105). -/
def execDcc5 (b : BitVec 5) (s : State) : Result := .next (dcPredItem s.channel 5 5 b.toNat s)

/-- DC_PRED, chroma, `111110` and 6 literal bits (R164, R105). -/
def execDcc6 (b : BitVec 6) (s : State) : Result := .next (dcPredItem s.channel 6 6 b.toNat s)

/-- DC_PRED, chroma, `1111110` and 7 literal bits (R164, R105). -/
def execDcc7 (b : BitVec 7) (s : State) : Result := .next (dcPredItem s.channel 7 7 b.toNat s)

/-- DC_PRED, chroma, `11111110` and 8 literal bits (R164, R105). -/
def execDcc8 (b : BitVec 8) (s : State) : Result := .next (dcPredItem s.channel 8 8 b.toNat s)

end Sys2Proof.Machine
end

