-- ==== Sys2Proof/Machine/Reconstruct.lean ====
section
/-! DEFINITION. The block reconstructor (43_reconstruct.md): dequantisation, the inverse DCT, the level shift, colour
conversion, packing, and the merge of six blocks into a tile. -/

namespace Sys2Proof.Machine

/-! Dequantisation. -/

/-- DequantDC: rec[0] (R220). -/
def dequantDc (c : Config) (level : Int) : Int :=
  let q := c.qmatrix.getD 0 0
  clamp (match c.dequant with
    | .spec => level * q
    | .free => Config.freeDequantDc level q) (-2048) 2047

/-- DequantAC: rec[k], k = 1..63 (R221). -/
def dequantAc (c : Config) (qtag : Half) (k : Nat) (level : Int) : Int :=
  let q := c.qmatrix.getD k 0
  clamp (match c.dequant with
    | .spec => Int.tdiv (level * qtag.toNat * q) 8
    | .free => Config.freeDequantAc level qtag.toNat q) (-2048) 2047

/-- rec[0..63] of a block (R220, R221). -/
def dequantBlock (c : Config) (qtag : Half) (level : List Int) : List Int :=
  (List.range 64).map fun k =>
    if k = 0 then dequantDc c (level.getD 0 0) else dequantAc c qtag k (level.getD k 0)

/-- DeZigzag: F[ZIGZAG[k]] <- rec[k] for the positions of `order`, in that order (R222). -/
def deZigzagFrom : List Nat → List Int → List Int → List Int
  | p :: order, v :: rec, f => deZigzagFrom order rec (f.set p v)
  | _, _, f => f

/-- DeZigzag of a block (R222). Under a permutation every entry of F is written; under another ZIGZAG the entries that no
position names are 0 (notes/assumptions/29.md). -/
def deZigzag (c : Config) (rec : List Int) : List Int := deZigzagFrom c.zigzag rec (List.replicate 64 0)

/-! The inverse DCT. -/

/-- M of R225, row x. -/
def idctMatrix : List (List Int) :=
  [ [1448,  2009,  1892,  1703,  1448,  1138,   784,   400] ] ++
  [ [1448,  1703,   784,  -400, -1448, -2009, -1892, -1138] ] ++
  [ [1448,  1138,  -784, -2009, -1448,   400,  1892,  1703] ] ++
  [ [1448,   400, -1892, -1138,  1448,  1703,  -784, -2009] ] ++
  [ [1448,  -400, -1892,  1138,  1448, -1703,  -784,  2009] ] ++
  [ [1448, -1138,  -784,  2009, -1448,  -400,  1892, -1703] ] ++
  [ [1448, -1703,   784,   400, -1448,  2009, -1892,  1138] ] ++
  [ [1448, -2009,  1892, -1703,  1448, -1138,   784,  -400] ]

/-- Σ row[u] * X[u]. -/
def dot : List Int → List Int → Int
  | a :: r, b :: x => a * b + dot r x
  | _, _ => 0

/-- IDCT_1D at position x of the output (R225). -/
def idct1d (c : Config) (xs : List Int) (x : Nat) : Int :=
  match c.idct with
  | .spec => asr (dot (idctMatrix.getD x []) xs + 2048) 12
  | .free => Config.freeIdct xs x

/-- Eight numbers from position `start`, `stride` apart. -/
def slice8 (f : List Int) (start stride : Nat) : List Int :=
  (List.range 8).map fun i => f.getD (start + stride * i) 0

/-- The row pass (R224): t[8v + x]. -/
def rowPass (c : Config) (f : List Int) : List Int :=
  (List.range 64).map fun i => idct1d c (slice8 f (8 * (i / 8)) 1) (i % 8)

/-- The column pass (R224): f[8y + x]. -/
def columnPass (c : Config) (t : List Int) : List Int :=
  (List.range 64).map fun i => idct1d c (slice8 t (i % 8) 8) (i / 8)

/-- IDCT2D, row pass then column pass (R224). -/
def idct2d (c : Config) (f : List Int) : List Int := columnPass c (rowPass c f)

/-! The level shift. -/

/-- LevelShiftLuma of one sample (R226). -/
def shiftLuma (c : Config) (f : Int) : Int :=
  clamp (match c.levelShift with
    | .spec => f + 128
    | .free => Config.freeLumaShift f) 0 255

/-- LevelShiftChroma of one sample (R227). -/
def shiftChroma (c : Config) (f : Int) : Int :=
  clamp (match c.levelShift with
    | .spec => f
    | .free => Config.freeChromaShift f) (-128) 127

/-- The level shift of a channel (R226, R227). -/
def levelShift (c : Config) (ch : Channel) (f : Int) : Int :=
  match ch with
  | .y => shiftLuma c f
  | .cb | .cr => shiftChroma c f

/-- The 64 samples of a block of channel `ch` (R295: DequantDC, DequantAC, DeZigzag, IDCT2D, the level shift). -/
def blockSamples (c : Config) (ch : Channel) (qtag : Half) (level : List Int) : List Int :=
  (idct2d c (deZigzag c (dequantBlock c qtag level))).map (levelShift c ch)

/-- The `n`-th free sample of channel `ch`: any value in 0..255 for luma, in -128..127 for chroma (R234). -/
def drawSample (ch : Channel) (n : Nat) : Int :=
  match ch with
  | .y => ((Config.freeSample n).toNat : Int)
  | .cb | .cr => (Config.freeSample n).toInt

/-- The 64 free samples of a poisoned block (R234). -/
def drawBlock (ch : Channel) (n : Nat) : List Int := (List.range 64).map fun i => drawSample ch (n + i)

/-- Reconstruct(r) of the current block, written to BPIX[r] (R295, R234). -/
def reconstructBlock (s : State) : State :=
  { s with
    bpix := s.bpix.set s.role
      (if s.poisoned then drawBlock s.channel s.draws else blockSamples s.cfg s.channel s.qtag s.level)
    draws := if s.poisoned then s.draws + 64 else s.draws }

/-! Colour. -/

/-- ColourConvert(Y, Cb, Cr) (R228). -/
def colourConvert (k : ColorK) (y cb cr : Int) : Int × Int × Int :=
  (clamp (y + asr (k.kr * cr) 12) 0 255,
   clamp (y + asr (-(k.kgb * cb) - k.kgr * cr) 12) 0 255,
   clamp (y + asr (k.kb * cb) 12) 0 255)

/-- Pack(R, G, B) (R229). -/
def packColour (c : Config) (r g b : Int) : Half :=
  match c.pack with
  | .spec => BitVec.ofInt 16 (r / 8 % 32 + 32 * (g / 8 % 32) + 1024 * (b / 8 % 32))
  | .free => Config.freePack r g b

/-- Pack(ColourConvert(Y, Cb, Cr)) (R230). -/
def pixelColour (c : Config) (y cb cr : Int) : Half :=
  let rgb := colourConvert c.colorK y cb cr
  packColour c rgb.1 rgb.2.1 rgb.2.2

/-- The luma role of the tile's quadrant at (y, x) (R230). -/
def quadrantRole (y x : Nat) : Role :=
  if y < 8 then (if x < 8 then .y0 else .y1) else (if x < 8 then .y2 else .y3)

/-- The tile's colour at row y, column x (R230). -/
def tilePixel (c : Config) (b : BlockPixels) (y x : Nat) : Half :=
  let yv := (b.get (quadrantRole y x)).getD (8 * (y % 8) + x % 8) 0
  let ci := 8 * (y / 2) + x / 2
  pixelColour c yv (b.cb.getD ci 0) (b.cr.getD ci 0)

/-- MergeTile (R230). -/
def mergeTile (c : Config) (b : BlockPixels) : List Half :=
  (List.range 256).map fun i => tilePixel c b (i / 16) (i % 16)

end Sys2Proof.Machine
end

