-- ==== Sys2Proof/Machine/Assembler.lean ====
section
/-! DEFINITION. The frame assembler (44_assembler.md): macroblock placement in a segmented frame, and the two images of a
raw chunk of the tiled container. -/

namespace Sys2Proof.Machine

/-- The left edge of macroblock `m` (R260). -/
def tileX (c : Config) (m : Nat) : Nat := 16 * (m % (c.frameW / 16))

/-- The top edge of macroblock `m` (R260). -/
def tileY (c : Config) (m : Nat) : Nat := 16 * (m / (c.frameW / 16))

/-- The frame position (x, y) lies in macroblock `m`. -/
def inTile (c : Config) (m x y : Nat) : Bool :=
  decide (tileX c m ≤ x ∧ x < tileX c m + 16 ∧ tileY c m ≤ y ∧ y < tileY c m + 16)

/-- PlaceTile(m) (R260): every frame position that macroblock `m` covers takes its tile colour, the others stay. -/
def placeTile (c : Config) (m : Nat) (tile frame : List Half) : List Half :=
  frame.mapIdx fun i p =>
    let x := i % c.frameW
    let y := i / c.frameW
    if inTile c m x y then tile.getD (16 * (y - tileY c m) + (x - tileX c m)) 0 else p


/-- A(x, y) (R264). -/
def regionA (m : Memory) (base x y : Nat) : Half := BitVec.ofNat 16 (m.memRead (base + 2 * (256 * y + x)) 2)

/-- B(x, y) (R264). -/
def regionB (m : Memory) (base x y : Nat) : Half := BitVec.ofNat 16 (m.memRead (base + 131072 + 2 * (128 * y + x)) 2)

/-- IMG(x, y) with REORG = 1 (R262). -/
def reorgPixel (m : Memory) (base x y : Nat) : Half :=
  if x < 256 then regionA m base x y
  else if y < 128 then regionB m base (x - 256) y
  else regionB m base (x - 256 + 64) (y - 128)

/-- IMG(x, y) with REORG = 0 (R263). -/
def verbatimPixel (m : Memory) (base x y : Nat) : Half := BitVec.ofNat 16 (m.memRead (base + 2 * (256 * y + x)) 2)

/-- The width of a raw chunk's image (R262, R263). -/
def rawWidth (reorg : Bool) : Nat := if reorg then 320 else 256

/-- The height of a raw chunk's image (R262, R263). -/
def rawHeight (reorg : Bool) : Nat := if reorg then 256 else 320

/-- The image of the raw chunk at `base`, row-major (R262, R263). -/
def rawImage (m : Memory) (base : Nat) (reorg : Bool) : List Half :=
  (List.range 81920).map fun i =>
    if reorg then reorgPixel m base (i % 320) (i / 320) else verbatimPixel m base (i % 256) (i / 256)

/-- MergeTile and PlaceTile(MB) (R295). -/
def mergePlaceTile (s : State) : State :=
  { s with
    tile := mergeTile s.cfg s.bpix
    frame := placeTile s.cfg s.mb (mergeTile s.cfg s.bpix) s.frame }

end Sys2Proof.Machine
end

