-- ==== Sys2Proof/Machine/Framer.lean ====
section
/-! DEFINITION. The meanings of the container records (45_framers.md): a segment header (R293), a native texture and a raw
chunk of the tiled container (R284 to R286), and a recognised texture pattern after a segment payload (R298). -/

namespace Sys2Proof.Machine

/-- The header registers of a valid header, and the segment's count (R293). -/
def loadHeader (length typeId quant version : Half) (s : State) : State :=
  countSegment
    { s with
      hdr :=
        { length := length, typeId := typeId, quant := quant, version := version,
          flat := s.cfg.flatVersions.contains version }
      phase := .segDecode
      stage := .first }

/-- The rest of the input from CUR on, IN[CUR .. N-1] (R285, R288). -/
def restOfInput (s : State) : List Byte := s.mem.bytes s.cur (s.inLen.toNat - s.cur)

/-- A native texture chunk: classify and hand over the rest; the end comes in the step after the Accept (R284, R285). -/
def handOverTexture (s : State) : State :=
  emit (fun i => .nativeTexture i (restOfInput s)) { countSegment s with stage := .terminal }

/-- An unknown chunk (R284, R288). -/
def handOverUnknown (s : State) : State :=
  emit (fun i => .rawVerbatim i (restOfInput s)) { countSegment s with stage := .terminal }

/-- A raw chunk: classify and hand over the image, which stands in FRAME (R45); the advance comes in the step after the
Accept (R284, R286). -/
def handOverImage (s : State) : State :=
  emit
    (fun i => .image i (rawImage s.mem s.cur s.ctrl.reorg) (rawWidth s.ctrl.reorg) (rawHeight s.ctrl.reorg) 16)
    { countSegment s with frame := rawImage s.mem s.cur s.ctrl.reorg, stage := .advance }

/-- SEG_HDR: the step of PHASE SEG_HDR on a valid header (R293). -/
def execSegHdr (length typeId quant version : Half) (s : State) : Result :=
  .next (loadHeader length typeId quant version s)

/-- TILED_TEX (R285). -/
def execTiledTex (_magic _typ : Word) (s : State) : Result := .next (handOverTexture s)

/-- RAW_CHUNK (R286). The classifier issues it only with a whole chunk left (R284). -/
def execRawChunk (s : State) : Result :=
  if s.cur + 163840 ≤ s.inLen.toNat then .next (handOverImage s) else .fault .readOutsideInput

/-- TEX_PREFIX: TextureRecord(P), then NextSegment() (R298, R300). -/
def execTexPrefix (_p : Half) (s : State) : Result :=
  .next (nextSegment (textureRecord (probeOffset s) s))

end Sys2Proof.Machine
end

