-- ==== Sys2Proof/Machine/HostCommand.lean ====
section
/-! DEFINITION. The meanings of the host commands: the two kinds of write to CTRL (R32, R119, R282). Both are ignored in
every field while STATUS.BUSY = 1 (R32, R381). -/

namespace Sys2Proof.Machine

/-- The start of a run (R282). -/
def startRun (mode reorg srcErr : Bool) (s : State) : State :=
  { s with
    ctrl := { mode := mode, reorg := reorg, srcErr := srcErr }
    outCount := 0
    segCount := 0
    oorCount := 0
    overrunCount := 0
    segcapCount := 0
    endPos := 0
    endInfo := 0
    status := startedStatus
    pending := none
    cur := 0
    phase := .startCheck
    stage := .first }

/-- The fields of CTRL (R32). -/
def setControl (mode reorg srcErr : Bool) (s : State) : State :=
  { s with ctrl := { mode := mode, reorg := reorg, srcErr := srcErr } }

/-- START (R282). -/
def execStart (mode reorg srcErr : Bool) (s : State) : Result :=
  .next (if s.status.busy then s else startRun mode reorg srcErr s)

/-- CTRL_SET: only the fields change (R119). -/
def execCtrlSet (mode reorg srcErr : Bool) (s : State) : Result :=
  .next (if s.status.busy then s else setControl mode reorg srcErr s)

end Sys2Proof.Machine
end

