-- ==== Sys2Proof/Machine/Dispatch.lean ====
section
/-! DEFINITION. One arm per instruction, each one direct call of its meaning. -/

namespace Sys2Proof.Machine

def exec (i : Instr) (s : State) : Host.Outcome State Fault Refusal :=
  match i with
  | .acR0L1 neg => Sys2Proof.Machine.execAcR0L1 neg s
  | .acR1L1 neg => Sys2Proof.Machine.execAcR1L1 neg s
  | .acR0L2 neg => Sys2Proof.Machine.execAcR0L2 neg s
  | .acR2L1 neg => Sys2Proof.Machine.execAcR2L1 neg s
  | .acR0L3 neg => Sys2Proof.Machine.execAcR0L3 neg s
  | .acR3L1 neg => Sys2Proof.Machine.execAcR3L1 neg s
  | .acR4L1 neg => Sys2Proof.Machine.execAcR4L1 neg s
  | .acR1L2 neg => Sys2Proof.Machine.execAcR1L2 neg s
  | .acR5L1 neg => Sys2Proof.Machine.execAcR5L1 neg s
  | .acR6L1 neg => Sys2Proof.Machine.execAcR6L1 neg s
  | .acR7L1 neg => Sys2Proof.Machine.execAcR7L1 neg s
  | .acR0L4 neg => Sys2Proof.Machine.execAcR0L4 neg s
  | .acR2L2 neg => Sys2Proof.Machine.execAcR2L2 neg s
  | .acR8L1 neg => Sys2Proof.Machine.execAcR8L1 neg s
  | .acR9L1 neg => Sys2Proof.Machine.execAcR9L1 neg s
  | .acR0L5 neg => Sys2Proof.Machine.execAcR0L5 neg s
  | .acR0L6 neg => Sys2Proof.Machine.execAcR0L6 neg s
  | .acR1L3 neg => Sys2Proof.Machine.execAcR1L3 neg s
  | .acR3L2 neg => Sys2Proof.Machine.execAcR3L2 neg s
  | .acR10L1 neg => Sys2Proof.Machine.execAcR10L1 neg s
  | .acR11L1 neg => Sys2Proof.Machine.execAcR11L1 neg s
  | .acR12L1 neg => Sys2Proof.Machine.execAcR12L1 neg s
  | .acR13L1 neg => Sys2Proof.Machine.execAcR13L1 neg s
  | .acR0L7 neg => Sys2Proof.Machine.execAcR0L7 neg s
  | .acR1L4 neg => Sys2Proof.Machine.execAcR1L4 neg s
  | .acR2L3 neg => Sys2Proof.Machine.execAcR2L3 neg s
  | .acR4L2 neg => Sys2Proof.Machine.execAcR4L2 neg s
  | .acR5L2 neg => Sys2Proof.Machine.execAcR5L2 neg s
  | .acR14L1 neg => Sys2Proof.Machine.execAcR14L1 neg s
  | .acR15L1 neg => Sys2Proof.Machine.execAcR15L1 neg s
  | .acR16L1 neg => Sys2Proof.Machine.execAcR16L1 neg s
  | .acR0L8 neg => Sys2Proof.Machine.execAcR0L8 neg s
  | .acR0L9 neg => Sys2Proof.Machine.execAcR0L9 neg s
  | .acR0L10 neg => Sys2Proof.Machine.execAcR0L10 neg s
  | .acR0L11 neg => Sys2Proof.Machine.execAcR0L11 neg s
  | .acR1L5 neg => Sys2Proof.Machine.execAcR1L5 neg s
  | .acR2L4 neg => Sys2Proof.Machine.execAcR2L4 neg s
  | .acR3L3 neg => Sys2Proof.Machine.execAcR3L3 neg s
  | .acR4L3 neg => Sys2Proof.Machine.execAcR4L3 neg s
  | .acR6L2 neg => Sys2Proof.Machine.execAcR6L2 neg s
  | .acR7L2 neg => Sys2Proof.Machine.execAcR7L2 neg s
  | .acR8L2 neg => Sys2Proof.Machine.execAcR8L2 neg s
  | .acR17L1 neg => Sys2Proof.Machine.execAcR17L1 neg s
  | .acR18L1 neg => Sys2Proof.Machine.execAcR18L1 neg s
  | .acR19L1 neg => Sys2Proof.Machine.execAcR19L1 neg s
  | .acR20L1 neg => Sys2Proof.Machine.execAcR20L1 neg s
  | .acR21L1 neg => Sys2Proof.Machine.execAcR21L1 neg s
  | .acR0L12 neg => Sys2Proof.Machine.execAcR0L12 neg s
  | .acR0L13 neg => Sys2Proof.Machine.execAcR0L13 neg s
  | .acR0L14 neg => Sys2Proof.Machine.execAcR0L14 neg s
  | .acR0L15 neg => Sys2Proof.Machine.execAcR0L15 neg s
  | .acR1L6 neg => Sys2Proof.Machine.execAcR1L6 neg s
  | .acR1L7 neg => Sys2Proof.Machine.execAcR1L7 neg s
  | .acR2L5 neg => Sys2Proof.Machine.execAcR2L5 neg s
  | .acR3L4 neg => Sys2Proof.Machine.execAcR3L4 neg s
  | .acR5L3 neg => Sys2Proof.Machine.execAcR5L3 neg s
  | .acR9L2 neg => Sys2Proof.Machine.execAcR9L2 neg s
  | .acR10L2 neg => Sys2Proof.Machine.execAcR10L2 neg s
  | .acR22L1 neg => Sys2Proof.Machine.execAcR22L1 neg s
  | .acR23L1 neg => Sys2Proof.Machine.execAcR23L1 neg s
  | .acR24L1 neg => Sys2Proof.Machine.execAcR24L1 neg s
  | .acR25L1 neg => Sys2Proof.Machine.execAcR25L1 neg s
  | .acR26L1 neg => Sys2Proof.Machine.execAcR26L1 neg s
  | .acR0L16 neg => Sys2Proof.Machine.execAcR0L16 neg s
  | .acR0L17 neg => Sys2Proof.Machine.execAcR0L17 neg s
  | .acR0L18 neg => Sys2Proof.Machine.execAcR0L18 neg s
  | .acR0L19 neg => Sys2Proof.Machine.execAcR0L19 neg s
  | .acR0L20 neg => Sys2Proof.Machine.execAcR0L20 neg s
  | .acR0L21 neg => Sys2Proof.Machine.execAcR0L21 neg s
  | .acR0L22 neg => Sys2Proof.Machine.execAcR0L22 neg s
  | .acR0L23 neg => Sys2Proof.Machine.execAcR0L23 neg s
  | .acR0L24 neg => Sys2Proof.Machine.execAcR0L24 neg s
  | .acR0L25 neg => Sys2Proof.Machine.execAcR0L25 neg s
  | .acR0L26 neg => Sys2Proof.Machine.execAcR0L26 neg s
  | .acR0L27 neg => Sys2Proof.Machine.execAcR0L27 neg s
  | .acR0L28 neg => Sys2Proof.Machine.execAcR0L28 neg s
  | .acR0L29 neg => Sys2Proof.Machine.execAcR0L29 neg s
  | .acR0L30 neg => Sys2Proof.Machine.execAcR0L30 neg s
  | .acR0L31 neg => Sys2Proof.Machine.execAcR0L31 neg s
  | .acR0L32 neg => Sys2Proof.Machine.execAcR0L32 neg s
  | .acR0L33 neg => Sys2Proof.Machine.execAcR0L33 neg s
  | .acR0L34 neg => Sys2Proof.Machine.execAcR0L34 neg s
  | .acR0L35 neg => Sys2Proof.Machine.execAcR0L35 neg s
  | .acR0L36 neg => Sys2Proof.Machine.execAcR0L36 neg s
  | .acR0L37 neg => Sys2Proof.Machine.execAcR0L37 neg s
  | .acR0L38 neg => Sys2Proof.Machine.execAcR0L38 neg s
  | .acR0L39 neg => Sys2Proof.Machine.execAcR0L39 neg s
  | .acR0L40 neg => Sys2Proof.Machine.execAcR0L40 neg s
  | .acR1L8 neg => Sys2Proof.Machine.execAcR1L8 neg s
  | .acR1L9 neg => Sys2Proof.Machine.execAcR1L9 neg s
  | .acR1L10 neg => Sys2Proof.Machine.execAcR1L10 neg s
  | .acR1L11 neg => Sys2Proof.Machine.execAcR1L11 neg s
  | .acR1L12 neg => Sys2Proof.Machine.execAcR1L12 neg s
  | .acR1L13 neg => Sys2Proof.Machine.execAcR1L13 neg s
  | .acR1L14 neg => Sys2Proof.Machine.execAcR1L14 neg s
  | .acR1L15 neg => Sys2Proof.Machine.execAcR1L15 neg s
  | .acR1L16 neg => Sys2Proof.Machine.execAcR1L16 neg s
  | .acR1L17 neg => Sys2Proof.Machine.execAcR1L17 neg s
  | .acR1L18 neg => Sys2Proof.Machine.execAcR1L18 neg s
  | .acR6L3 neg => Sys2Proof.Machine.execAcR6L3 neg s
  | .acR11L2 neg => Sys2Proof.Machine.execAcR11L2 neg s
  | .acR12L2 neg => Sys2Proof.Machine.execAcR12L2 neg s
  | .acR13L2 neg => Sys2Proof.Machine.execAcR13L2 neg s
  | .acR14L2 neg => Sys2Proof.Machine.execAcR14L2 neg s
  | .acR15L2 neg => Sys2Proof.Machine.execAcR15L2 neg s
  | .acR16L2 neg => Sys2Proof.Machine.execAcR16L2 neg s
  | .acR27L1 neg => Sys2Proof.Machine.execAcR27L1 neg s
  | .acR28L1 neg => Sys2Proof.Machine.execAcR28L1 neg s
  | .acR29L1 neg => Sys2Proof.Machine.execAcR29L1 neg s
  | .acR30L1 neg => Sys2Proof.Machine.execAcR30L1 neg s
  | .acR31L1 neg => Sys2Proof.Machine.execAcR31L1 neg s
  | .esc run level => Sys2Proof.Machine.execEsc run level s
  | .eob => Sys2Proof.Machine.execEob s
  | .dcf d => Sys2Proof.Machine.execDcf d s
  | .dcy0 => Sys2Proof.Machine.execDcy0 s
  | .dcy1 b => Sys2Proof.Machine.execDcy1 b s
  | .dcy2 b => Sys2Proof.Machine.execDcy2 b s
  | .dcy3 b => Sys2Proof.Machine.execDcy3 b s
  | .dcy4 b => Sys2Proof.Machine.execDcy4 b s
  | .dcy5 b => Sys2Proof.Machine.execDcy5 b s
  | .dcy6 b => Sys2Proof.Machine.execDcy6 b s
  | .dcy7 b => Sys2Proof.Machine.execDcy7 b s
  | .dcy8 b => Sys2Proof.Machine.execDcy8 b s
  | .dcc0 => Sys2Proof.Machine.execDcc0 s
  | .dcc1 b => Sys2Proof.Machine.execDcc1 b s
  | .dcc2 b => Sys2Proof.Machine.execDcc2 b s
  | .dcc3 b => Sys2Proof.Machine.execDcc3 b s
  | .dcc4 b => Sys2Proof.Machine.execDcc4 b s
  | .dcc5 b => Sys2Proof.Machine.execDcc5 b s
  | .dcc6 b => Sys2Proof.Machine.execDcc6 b s
  | .dcc7 b => Sys2Proof.Machine.execDcc7 b s
  | .dcc8 b => Sys2Proof.Machine.execDcc8 b s
  | .segHdr length typeId quant version => Sys2Proof.Machine.execSegHdr length typeId quant version s
  | .tiledTex magic typ => Sys2Proof.Machine.execTiledTex magic typ s
  | .rawChunk => Sys2Proof.Machine.execRawChunk s
  | .texPrefix p => Sys2Proof.Machine.execTexPrefix p s
  | .start mode reorg srcErr => Sys2Proof.Machine.execStart mode reorg srcErr s
  | .ctrlSet mode reorg srcErr => Sys2Proof.Machine.execCtrlSet mode reorg srcErr s

end Sys2Proof.Machine
end

