-- ==== Sys2Proof/Machine/Engine.lean ====
section
/-! DEFINITION. What moves the machine besides an instruction: the engine's own steps (R292), which decode no code, and the
host's actions other than a CTRL write (R310, R370). -/

namespace Sys2Proof.Machine

/-- The engine's steps that no row of the opcode table names (R292). -/
inductive EngineStep where
  /-- The checks at the start of a run (R283). -/
  | startCheck
  /-- `end END_OF_INPUT` (R289, R293). -/
  | endOfInput
  /-- `end FORMAT_MISMATCH` (R293). -/
  | formatMismatch
  /-- A chunk classified Unknown (R284, R288). -/
  | unknownChunk
  /-- Advance() (R287). -/
  | advance
  /-- `end TERMINAL_CHUNK` (R285, R288). -/
  | terminal
  /-- Segment initialisation (R294). -/
  | segmentInit
  /-- A DC item that matches no code (R167). -/
  | dcMismatch
  /-- An AC item that matches no code (R195). -/
  | acMismatch
  /-- A code word of an AC_TABLE or DC_CODE other than the opcode table's (R7). -/
  | tableItem (t : TableItem)
  /-- Reconstruct(r) and the next block (R295). -/
  | reconstruct
  /-- MergeTile, PlaceTile(MB) and the next macroblock (R295). -/
  | mergePlace
  /-- Emit the frame (R296). -/
  | emitFrame
  /-- PHASE <- SEG_PROBE, in the step after the Accept (R296). -/
  | toProbe
  /-- The probe finds no recognised pattern: NextSegment() alone (R298). -/
  | noTexture
  deriving DecidableEq, Repr

/-- The raster a run needs, in pixels (R283, R266). -/
def rasterNeed (s : State) : Nat := if s.ctrl.mode then s.cfg.frameW * s.cfg.frameH else 81920

/-- R283. FRAME gets the run's size here, once (notes/assumptions/9.md). -/
def startCheck (s : State) : State :=
  if s.ctrl.srcErr then runEnd .ioError s
  else if s.cfg.frameCapacity < rasterNeed s then runEnd .allocFailure s
  else
    { s with
      phase := if s.ctrl.mode then .segHdr else .tiled
      stage := .first
      frame := List.replicate (rasterNeed s) 0 }

/-- R287. -/
def advanceChunk (s : State) : State := { s with cur := s.cur + 163840, stage := .first }

/-- R294, and the entry of the macroblock loop of R295. -/
def segmentInit (s : State) : State :=
  { s with
    cursor := Cursor.init s.mem (s.cur + 8) (segmentEnd s)
    pred := Pred.zero
    mb := 0
    blk := 0
    entryCount := 0
    stage := if s.cfg.mbCount = 0 then .emitFrame else .dcItem }

/-- Reconstruct(r), then the next block or the end of the macroblock (R295). -/
def reconstructStep (s : State) : State :=
  { reconstructBlock s with
    blk := if s.blk < 5 then s.blk + 1 else s.blk
    stage := if s.blk < 5 then .dcItem else .mergePlace }

/-- MergeTile and PlaceTile(MB), then the next macroblock or the end of the loop (R295). -/
def mergePlaceStep (s : State) : State :=
  { mergePlaceTile s with
    mb := if s.mb + 1 < s.cfg.mbCount then s.mb + 1 else s.mb
    blk := if s.mb + 1 < s.cfg.mbCount then 0 else s.blk
    stage := if s.mb + 1 < s.cfg.mbCount then .dcItem else .emitFrame }

/-- R296. -/
def emitFrameStep (s : State) : State :=
  emit (fun i => .image i (s.frame.take (s.cfg.frameW * s.cfg.frameH)) s.cfg.frameW s.cfg.frameH 16)
    { s with stage := .toProbe }

/-- R296, in the step after the Accept. -/
def toProbe (s : State) : State := { s with phase := .segProbe, stage := .first }

/-- An item of a parameter table: the operations of R164, R192, R193 and R194 with the table's numbers. -/
def tableItemStep (t : TableItem) (s : State) : State :=
  match t with
  | .ac codeLen run mag neg => acVlcItem codeLen run mag neg s
  | .esc codeLen run level => acEscItem codeLen run level s
  | .eob codeLen => acEobItem codeLen s
  | .dc delta len => dcCodeItem s.channel delta len s

/-- The effect of an engine step. -/
def runEngineStep (e : EngineStep) (s : State) : State :=
  match e with
  | .startCheck => startCheck s
  | .endOfInput => runEnd .endOfInput s
  | .formatMismatch => runEnd .formatMismatch s
  | .unknownChunk => handOverUnknown s
  | .advance => advanceChunk s
  | .terminal => runEnd .terminalChunk s
  | .segmentInit => segmentInit s
  | .dcMismatch => vlcMismatch (blockStart s)
  | .acMismatch => vlcMismatch s
  | .tableItem t => tableItemStep t s
  | .reconstruct => reconstructStep s
  | .mergePlace => mergePlaceStep s
  | .emitFrame => emitFrameStep s
  | .toProbe => toProbe s
  | .noTexture => nextSegment s

/-! The host. -/

/-- A whole, aligned 32-bit access inside 0x00..0x3C (R68). -/
def wordAccess (off width : Nat) : Bool := decide (width = 4 ∧ off % 4 = 0 ∧ off ≤ 60)

/-- The value of the register at `off`; reserved offsets read 0 (R31, R68). -/
def readRegister (s : State) (off : Nat) : Word :=
  if off = 0x00 then s.ctrl.word
  else if off = 0x04 then s.status.word
  else if off = 0x08 then s.inLen
  else if off = 0x0C then s.outCount
  else if off = 0x10 then s.segCount
  else if off = 0x14 then s.oorCount
  else if off = 0x18 then s.overrunCount
  else if off = 0x1C then s.segcapCount
  else if off = 0x20 then s.endPos
  else if off = 0x24 then s.endInfo
  else 0

/-- A write to a register other than CTRL: IN_LEN while BUSY = 0; every other one is ignored (R31, R34). -/
def writeRegister (off : Nat) (v : Word) (s : State) : State :=
  { s with inLen := if off = 0x08 ∧ s.status.busy = false then v else s.inLen }

/-- Accept() (R311): the pending artifact goes to the host. -/
def acceptArtifact (s : State) : State :=
  { s with
    out := s.out ++ s.pending.toList
    pending := none
    status := { s.status with hold := false } }

/-- The reset input (R370, R371): the reset state, with the parameters, IN and the outside's own fields kept. -/
def resetState (s : State) : State :=
  { State.reset with
    cfg := s.cfg
    mem := s.mem
    host := s.host
    readData := s.readData
    out := s.out
    draws := s.draws }

/-- The effect of a host action that is no CTRL write. -/
def hostStep (a : HostAction) (s : State) : Result :=
  match a with
  | .regWrite off width v => if wordAccess off width then .next (writeRegister off v s) else .refused .registerAccess
  | .regRead off width =>
    if wordAccess off width then .next { s with readData := readRegister s off } else .refused .registerAccess
  | .accept => if s.status.hold then .next (acceptArtifact s) else .refused .acceptNotEnabled
  | .inWrite addr b =>
    if s.status.busy then .refused .inputBusy
    else if addr < s.cfg.inMax then .next { s with mem := s.mem.write addr b }
    else .fault .writeOutsideInput
  | .reset => .next (resetState s)
  | .engine => .next s

end Sys2Proof.Machine
end

