-- ==== Sys2Proof/Machine/Fetch.lean ====
section
/-! DEFINITION. What the next step is: the decode position (PHASE, CUR, BITPOS, MB, BLK, K) of R46 selects the code to
decode or the engine step to take, and the host's pending actions say whose turn it is (R310). -/

namespace Sys2Proof.Machine

/-- What the next step does. -/
inductive Fetched where
  /-- A decoded instruction. -/
  | instr (i : Instr)
  /-- An engine step that decodes nothing. -/
  | engine (e : EngineStep)
  /-- A host action other than a CTRL write. -/
  | host (a : HostAction)
  /-- Nothing is enabled: the engine takes no step (R310, R372). -/
  | idle
  deriving DecidableEq, Repr

/-- Whose turn it is. -/
inductive Turn where
  | engine
  | host (a : HostAction)
  deriving DecidableEq, Repr

/-- The host's first pending action is next, if any; an Accept waits until it is enabled while the run goes on (R310,
R311). With no host action pending the engine steps. -/
def turn (s : State) : Turn :=
  match s.host with
  | [] => .engine
  | .engine :: _ => .engine
  | .accept :: _ => if s.status.busy && !s.status.hold then .engine else .host .accept
  | a :: _ => .host a

/-- The state after the turn is taken off the host's list. An Accept that waits stays on it. -/
def popHost (s : State) : State :=
  match s.host with
  | .accept :: _ => if s.status.busy && !s.status.hold then s else { s with host := s.host.tail }
  | _ => { s with host := s.host.tail }

/-- The length of the longest of some codes. -/
def longestCode (codes : List (List Bool)) : Nat := codes.foldl (fun n b => max n b.length) 0

/-- How many bits the decoder may look at before the operands of an item: none for the opcode table's codes, the longest code
of a parameter table, and under `DcCode.free` all that the region has. -/
def codeReach (s : State) : Nat :=
  (match s.cfg.acCode with
    | .spec => 0
    | .table rows eob esc => longestCode (eob :: esc :: rows.map AcRow.code))
  + (match s.cfg.dcCode with
    | .candidate => 0
    | .table y c => longestCode ((y ++ c).map DcRow.code)
    | .free => 8 * (s.cursor.srcEnd - s.cursor.srcBase))

/-- How many blocks of 16 bits the decoder gets: 48 bits for the opcode table's codes, else enough for the longest code and
an escape's operands. -/
def lookaheadBlocks (s : State) : Nat := 2 + (codeReach s + 17) / 16

/-- The next stream bits, as the cursor sees them. -/
def lookahead (s : State) : List Bool := s.cursor.ahead s.mem (lookaheadBlocks s)

/-- The context of the DC item of the current block (R162, R165). -/
def dcContext (s : State) : Context :=
  if s.hdr.flat then .dcFlat else if s.channel = .y then .dcLuma else .dcChroma

/-- What a decoder answer asks for, with the engine step of a rejection. -/
def Decoded.fetched (mismatch : EngineStep) : Decoded → Fetched
  | .ok i => .instr i
  | .other t => .engine (.tableItem t)
  | .reject _ => .engine mismatch

/-- The step of PHASE TILED (R289, R284). -/
def fetchTiled (s : State) : Fetched :=
  if s.inLen.toNat ≤ s.cur then .engine .endOfInput
  else Decoded.fetched .unknownChunk
    (decode s.cfg (.tiled (s.inLen.toNat - s.cur)) (.bytes (s.mem.bytes s.cur (min 8 (s.inLen.toNat - s.cur)))))

/-- The step of PHASE SEG_HDR (R293). -/
def fetchSegHdr (s : State) : Fetched :=
  if s.inLen.toNat ≤ s.cur then .engine .endOfInput
  else Decoded.fetched .formatMismatch
    (decode s.cfg .segHdr (.bytes (s.mem.bytes s.cur (min 8 (s.inLen.toNat - s.cur)))))

/-- The step of PHASE SEG_PROBE (R298). -/
def fetchProbe (s : State) : Fetched :=
  Decoded.fetched .noTexture
    (decode s.cfg .probe (.bytes (s.mem.bytes (probeOffset s) (min 2 (segmentEnd s - probeOffset s)))))

/-- The step of PHASE SEG_DECODE (R292, R294 to R296). -/
def fetchDecode (s : State) : Fetched :=
  match s.stage with
  | .dcItem => Decoded.fetched .dcMismatch (decode s.cfg (dcContext s) (.bits (lookahead s)))
  | .acItem => Decoded.fetched .acMismatch (decode s.cfg .acItem (.bits (lookahead s)))
  | .reconstruct => .engine .reconstruct
  | .mergePlace => .engine .mergePlace
  | .emitFrame => .engine .emitFrame
  | .toProbe => .engine .toProbe
  | .first | .advance | .terminal => .engine .segmentInit

/-- The engine's next step (R292). -/
def fetchEngine (s : State) : Fetched :=
  match s.phase with
  | .idle | .ended => .idle
  | .startCheck => .engine .startCheck
  | .tiled =>
    match s.stage with
    | .advance => .engine .advance
    | .terminal => .engine .terminal
    | .first | .dcItem | .acItem | .reconstruct | .mergePlace | .emitFrame | .toProbe => fetchTiled s
  | .segHdr => fetchSegHdr s
  | .segDecode => fetchDecode s
  | .segProbe => fetchProbe s

/-- The next step: a CTRL write is an instruction (R119), any other host action is taken as it is, and the engine steps
only while BUSY = 1 and HOLD = 0 (R310). -/
def fetch (s : State) : Fetched :=
  match turn s with
  | .host (.regWrite 0 4 v) => .instr (decodeHost v)
  | .host a => .host a
  | .engine => if s.status.busy && !s.status.hold then fetchEngine s else .idle

/-! Placing an instruction where the next step fetches it (a test's load, not the machine's own doing). -/

/-- The two bytes of a 16-bit cursor word, low byte first, of 16 stream bits (R73, R120). -/
def packBits : Nat → List Bool → List Byte
  | 0, _ => []
  | words + 1, b => natBytes 2 (bitsNat (b.take 16) * 2 ^ (16 - min 16 b.length)) ++ packBits words (b.drop 16)

/-- A run in progress, with the host and the output port idle. -/
def placeRun (s : State) : State :=
  { s with status := startedStatus, host := [], pending := none }

/-- The stream bits `b`, with zeros after them, at the cursor of a segment at offset 0, in the stage given. -/
def placeBits (b : List Bool) (stage : Stage) (s : State) : State :=
  let m := s.mem.writeAll 8 (packBits 4 b)
  { placeRun s with
    mem := m
    inLen := 16
    phase := .segDecode
    stage := stage
    cur := 0
    cursor := Cursor.init m 8 16 }

/-- The bytes `b` at IN address 0, an input of `n` bytes with the phase given at offset 0. -/
def placeBytes (b : List Byte) (n : Nat) (phase : Phase) (s : State) : State :=
  { placeRun s with
    mem := s.mem.writeAll 0 b
    inLen := BitVec.ofNat 32 n
    phase := phase
    stage := .first
    cur := 0 }

/-- Place a code in its context, so that the next step decodes it there. -/
def placeCode (x : Context) (k : Code) (s : State) : State :=
  match x, k with
  | .dcFlat, .bits b => let t := placeBits b .dcItem s; { t with hdr := { t.hdr with flat := true } }
  | .dcLuma, .bits b =>
    let t := placeBits b .dcItem s
    { t with hdr := { t.hdr with flat := false }, blk := t.cfg.blockRole.idxOf .y0 }
  | .dcChroma, .bits b =>
    let t := placeBits b .dcItem s
    { t with hdr := { t.hdr with flat := false }, blk := t.cfg.blockRole.idxOf .cb }
  | .acItem, .bits b => placeBits b .acItem s
  | .segHdr, .bytes b => placeBytes b 8 .segHdr s
  | .tiled rem, .bytes b => placeBytes b rem .tiled s
  | .probe, .bytes b =>
    let t := placeBytes [] 16 .segProbe s
    { t with mem := s.mem.writeAll 8 b, cursor := { t.cursor with bitpos := 0, srcEnd := 16 } }
  | .host, .word w => { s with host := [.regWrite 0 4 w], status := { s.status with busy := false, hold := false } }
  | _, _ => s

/-- Place an opcode-table word in the context it is read in (`tableReadings`). -/
def placeWord (nbits w : Nat) (s : State) : State :=
  match firstInstr s.cfg (tableReadings nbits w) with
  | some (x, k, _) => placeCode x k s
  | none => s

end Sys2Proof.Machine
end

