-- ==== Sys2Proof/Machine/Step.lean ====
section
/-! DEFINITION. One step of the machine: the engine's next step, an instruction's meaning, or a host action (R3, R310). -/

namespace Sys2Proof.Machine

/-- One atomic step (R3). -/
def step (s : State) : Host.Outcome State Fault Refusal :=
  match fetch s with
  | .instr i => exec i (popHost s)
  | .engine e => .next (runEngineStep e (popHost s))
  | .host a => hostStep a (popHost s)
  | .idle => .next (popHost s)

/-- `s` with an opcode-table word where the next step fetches its instruction. -/
def State.withFetchWord (s : State) (nbits w : Nat) : State := placeWord nbits w s

end Sys2Proof.Machine
end

