-- ==== Sys2Proof/Machine/Tokens.lean ====
section
/-! DEFINITION. The bitstream assembly of R120 to R122: what each token and each macro stands for, and how a bitstream lies in
IN. No step reads it; it says which bits the items of a bitstream are. -/

namespace Sys2Proof.Machine

/-- A token of a bitstream (R120), or one of the macros `acStar` (written AC* r,l) and `zero` (R121). The macro BLOCK stands
for several tokens: `blockTokens`. -/
inductive Token where
  | dcf (v : Int)
  | dcy (delta : Int)
  | dcc (delta : Int)
  | ac (run : Nat) (level : Int)
  | esc (run : Nat) (level : Int)
  | eob
  | bits (b : List Bool)
  | acStar (run : Nat) (level : Int)
  | zero (n : Nat)
  deriving DecidableEq, Repr

/-- The macro BLOCK: the DC token, the AC tokens, and a final EOB (R121). -/
def blockTokens (dc : Token) (items : List Token) : List Token := dc :: items ++ [.eob]

/-- The code word of AC_TABLE for a run and a magnitude, the sign bit not with it (R107, R110). DESIGN CHOICE: of two rows
with the same run and magnitude, which another table than R110's may have, the first listed one
(notes/assumptions/33.md). -/
def acWord (a : AcCode) (run mag : Nat) : Option (List Bool) :=
  match a with
  | .spec => (acTable.find? fun e => e.run == run && e.mag == mag).map fun e => natBits e.codeLen e.code
  | .table rows _ _ => (rows.find? fun r => r.run == run && r.mag == mag).map AcRow.code

/-- ESC_CODE (R109). -/
def escWord : AcCode → List Bool
  | .spec => escCode
  | .table _ _ esc => esc

/-- EOB_CODE (R108). -/
def eobWord : AcCode → List Bool
  | .spec => eobCode
  | .table _ eob _ => eob

/-- The DC_CODE word of a delta: under the candidate the size code and the literal of R106, the size the least with
|delta| < 2^size. DESIGN CHOICE: of two words with the same delta, which another DC_CODE may have, the first listed one;
and none under a free code, whose words are not known (notes/assumptions/33.md). -/
def dcWord (a : DcCode) (luma : Bool) (delta : Int) : Option (List Bool) :=
  match a with
  | .candidate =>
    ((if luma then dcLumaTable else dcChromaTable).find? fun e => decide (delta.natAbs < 2 ^ e.size)).map fun e =>
      natBits e.codeLen e.code ++ natBits e.size (if delta < 0 then delta + (2 ^ e.size - 1) else delta).toNat
  | .table y c => ((if luma then y else c).find? fun r => r.delta == delta).map DcRow.code
  | .free => none

/-- AC r,l: the code of (r, |l|) and the sign bit, for l ≠ 0 (R107, R120). -/
def acToken (a : AcCode) (run : Nat) (level : Int) : Option (List Bool) :=
  if level = 0 then none else (acWord a run level.natAbs).map (· ++ [decide (level < 0)])

/-- ESC r,l: ESC_CODE, six bits of r and eleven of l, for r in 0..63 and l in -1024..1023 (R109, R120). No pair in that
range is shut out, one that AC_TABLE can express or a level of 0 included (R109, R121). -/
def escToken (a : AcCode) (run : Nat) (level : Int) : Option (List Bool) :=
  if run ≤ 63 ∧ -1024 ≤ level ∧ level ≤ 1023 then
    some (escWord a ++ natBits 6 run ++ natBits 11 (BitVec.ofInt 11 level).toNat)
  else none

/-- The bits of a token, where it stands for some. AC* is the AC token when AC_TABLE has the pair, and ESC otherwise
(R121). -/
def Token.stream? (c : Config) : Token → Option (List Bool)
  | .dcf v => if -512 ≤ v ∧ v ≤ 511 then some (natBits 10 (BitVec.ofInt 10 v).toNat) else none
  | .dcy d => dcWord c.dcCode true d
  | .dcc d => dcWord c.dcCode false d
  | .ac run level => acToken c.acCode run level
  | .esc run level => escToken c.acCode run level
  | .eob => some (eobWord c.acCode)
  | .bits b => some b
  | .acStar run level => (acToken c.acCode run level).or (escToken c.acCode run level)
  | .zero n => some (List.replicate n false)

/-- The bits of a bitstream. -/
def tokensStream? (c : Config) : List Token → Option (List Bool)
  | [] => some []
  | t :: r => match t.stream? c, tokensStream? c r with
    | some b, some m => some (b ++ m)
    | _, _ => none

/-- The bytes of a bitstream in IN: 16 bits a word, the last one filled with zeros, each word low byte first (R73, R120). -/
def tokensBytes? (c : Config) (ts : List Token) : Option (List Byte) :=
  (tokensStream? c ts).map fun b => packBits ((b.length + 15) / 16) b

end Sys2Proof.Machine
end

