-- ==== Sys2Proof/Safety.lean ====
section
/-! DEFINITION. The terms that claims use: whose turn it is, what a good state is, and what an item does to the state. -/

namespace Sys2Proof.Machine

/-- The engine's action Step is enabled and has the turn (R310). -/
def EngineTurn (s : State) : Prop :=
  turn s = .engine ∧ s.status.busy = true ∧ s.status.hold = false

/-! Good states. -/

/-- The invariant of the bit cursor (R147). -/
structure CursorOk (m : Memory) (c : Cursor) : Prop where
  availLow : 1 ≤ c.avail
  availHigh : c.avail ≤ 16
  aligned : (c.bitpos + 16 + c.avail.toNat) % 16 = 0
  wptr : c.wptr = c.srcBase + 2 * ((c.bitpos + 16 + c.avail.toNat) / 16)
  streamBits : ∀ i, i < 16 + c.avail.toNat →
    c.sr.getLsbD (31 - i) = streamBit m c.srcBase c.srcEnd (c.bitpos + i)
  zeroBits : ∀ i, 16 + c.avail.toNat ≤ i → i < 32 → c.sr.getLsbD (31 - i) = false

/-- The stages of SEG_DECODE after the segment's initialisation. -/
def Stage.afterInit : Stage → Bool
  | .dcItem | .acItem | .reconstruct | .mergePlace | .emitFrame | .toProbe => true
  | .first | .advance | .terminal => false

/-- The stages of the macroblock loop (R295). -/
def Stage.inLoop : Stage → Bool
  | .dcItem | .acItem | .reconstruct | .mergePlace => true
  | .first | .advance | .terminal | .emitFrame | .toProbe => false

/-- The cursor's lifetime: from CursorInit until the segment ends (R150). -/
def CursorLive (s : State) : Prop :=
  (s.phase = .segDecode ∧ s.stage.afterInit = true) ∨ s.phase = .segProbe

/-- The sequencer and STATUS agree (R33, R36, R47, R280, R301). -/
structure StatusOk (s : State) : Prop where
  idleIffNotBusy : (s.phase = .idle ∨ s.phase = .ended) ↔ s.status.busy = false
  doneIffEnded : s.status.done = true ↔ s.phase = .ended
  reasonIffDone : s.status.endReason ≠ .none ↔ s.status.done = true
  fatalIffReason : s.status.fatal = s.status.endReason.isFatal
  successOnlyDone : s.status.success = true → s.status.done = true ∧ s.status.fatal = false
  holdIffPending : s.status.hold = s.pending.isSome
  holdOnlyBusy : s.status.hold = true → s.status.busy = true

/-- The samples of a role: 64 of them, 0..255 for luma and -128..127 for chroma (R44). -/
def samplesOk (ch : Channel) (l : List Int) : Prop :=
  l.length = 64 ∧ ∀ v ∈ l, match ch with
    | .y => 0 ≤ v ∧ v ≤ 255
    | .cb | .cr => -128 ≤ v ∧ v ≤ 127

/-- The internal buffers and indices lie in their ranges (R41, R42, R44), and FRAME has the run's raster (R45, R283). -/
structure BuffersOk (s : State) : Prop where
  kRange : s.k ≤ 64
  blkRange : s.blk ≤ 5
  mbRange : s.phase = .segDecode → s.stage.inLoop = true → s.mb < s.cfg.mbCount
  levelLength : s.level.length = 64
  samples : ∀ r : Role, samplesOk r.channel (s.bpix.get r)
  tileLength : s.tile.length = 256
  frameSegmented : s.phase = .segHdr ∨ s.phase = .segDecode ∨ s.phase = .segProbe →
    s.frame.length = s.cfg.frameW * s.cfg.frameH
  frameTiled : s.phase = .tiled → s.frame.length = 81920

/-! What an item does. -/

/-- A Consume of `n` bits at stream position `p` takes a bit past the end of the region (R145, R148). -/
def TakesPastEnd (c : Cursor) (p n : Nat) : Prop := ∃ i, i < n ∧ c.srcEnd ≤ byteOfBit c.srcBase (p + i)

/-- OVERRUN_COUNT goes from `a` to `b` over Consumes of the widths `ws` from stream position `p`, with one report, at most,
for each Consume (R145). -/
def OverrunsTo (c : Cursor) : Nat → List Nat → Word → Word → Prop
  | _, [], a, b => b = a
  | p, w :: ws, a, b => (TakesPastEnd c p w → OverrunsTo c (p + w) ws (satInc a) b)
      ∧ (¬ TakesPastEnd c p w → OverrunsTo c (p + w) ws a b)

/-- The Consumes of an item, of the widths `ws` in order, with one Overrun report for each (R142, R145) or one for the item
(R335, point 3), as the configuration has it. -/
structure Consumes (s t : State) (ws : List Nat) : Prop where
  cursor : t.cursor = ws.foldl (fun c n => c.advance s.mem n) s.cursor
  bitpos : t.cursor.bitpos = s.cursor.bitpos + ws.sum
  reportEach : s.cfg.overrunReports = .perConsume →
    OverrunsTo s.cursor s.cursor.bitpos ws s.overrunCount t.overrunCount
  reportItem : s.cfg.overrunReports = .perItem →
    (TakesPastEnd s.cursor s.cursor.bitpos ws.sum → t.overrunCount = satInc s.overrunCount)
    ∧ (¬ TakesPastEnd s.cursor s.cursor.bitpos ws.sum → t.overrunCount = s.overrunCount)

/-- One more coefficient entry, with the segment-capacity report (R198). -/
structure CountsEntry (s t : State) : Prop where
  entry : t.entryCount = s.entryCount + 1
  unbounded : s.cfg.segEntryCapacity = none → t.segcapCount = s.segcapCount
  within : ∀ cap, s.cfg.segEntryCapacity = some cap → s.entryCount + 1 ≤ cap → t.segcapCount = s.segcapCount
  past : ∀ cap, s.cfg.segEntryCapacity = some cap → cap < s.entryCount + 1 → t.segcapCount = satInc s.segcapCount

/-- An AC item of Consume widths `ws`, run `run` and level `v` (R192, R193, R196, R197), and its frame. -/
structure AcEffect (s t : State) (ws : List Nat) (run : Nat) (v : Int) : Prop where
  consumes : Consumes s t ws
  counts : CountsEntry s t
  stored : s.k ≠ 64 → s.k + run + 1 ≤ 63 → t.k = s.k + run + 1 ∧ t.level = s.level.set (s.k + run + 1) v
    ∧ t.oorCount = s.oorCount ∧ t.poisoned = s.poisoned
  dropped : s.k = 64 ∨ 63 < s.k + run + 1 → t.k = 64 ∧ t.level = s.level ∧ t.oorCount = satInc s.oorCount
    ∧ t.poisoned = (s.poisoned || decide (s.cfg.oorPolicy = .poison))
  frame : t = { s with
    cursor := t.cursor, overrunCount := t.overrunCount, entryCount := t.entryCount, segcapCount := t.segcapCount,
    k := t.k, level := t.level, oorCount := t.oorCount, poisoned := t.poisoned }

/-- The predictors as a block's DC item finds them (R160, R168, R295). -/
def startPred (s : State) : Pred := if s.cfg.dcResetPerMb = true ∧ s.blk = 0 then Pred.zero else s.pred

/-- A DC item of Consume widths `ws` that leaves `v` in LEVEL[0] and `p` in the predictors (R162, R169, R190), and its
frame. -/
structure DcEffect (s t : State) (ws : List Nat) (v : Int) (p : Pred) : Prop where
  consumes : Consumes s t ws
  counts : CountsEntry s t
  level : t.level = v :: List.replicate 63 0
  k : t.k = 0
  poisoned : t.poisoned = false
  qtag : t.qtag = s.hdr.quant
  pred : t.pred = p
  stage : t.stage = .acItem
  frame : t = { s with
    cursor := t.cursor, overrunCount := t.overrunCount, entryCount := t.entryCount, segcapCount := t.segcapCount,
    level := t.level, k := t.k, poisoned := t.poisoned, qtag := t.qtag, pred := t.pred, stage := t.stage }

/-- The little-endian 16-bit value at address `a` (R72). -/
def half (m : Memory) (a : Nat) : Half := m.read (a + 1) ++ m.read a

/-- `b` is IN[a .. a + n - 1]. -/
def BytesAt (m : Memory) (a n : Nat) (b : List Byte) : Prop :=
  b.length = n ∧ ∀ i, i < n → b.getD i 0 = m.read (a + i)

/-- The stream bits from BITPOS on begin with `b` (R148). -/
def StreamBegins (m : Memory) (c : Cursor) (b : List Bool) : Prop :=
  ∀ j, j < b.length → streamBit m c.srcBase c.srcEnd (c.bitpos + j) = b.getD j false

/-- The next `n` stream bits from BITPOS on (R148). -/
def nextBits (s : State) (n : Nat) : List Bool :=
  (List.range n).map fun j => streamBit s.mem s.cursor.srcBase s.cursor.srcEnd (s.cursor.bitpos + j)

/-- `ws` are widths of Consumes that take `len` bits: of at most 16 bits each, and one alone where one can (R142, R164). Where
a longer code is cut is not said. -/
def PiecesOf (len : Nat) (ws : List Nat) : Prop :=
  ws.sum = len ∧ (∀ w ∈ ws, 1 ≤ w ∧ w ≤ 16) ∧ (len ≤ 16 → ws = [len])

/-- The next `len` stream bits are a code word for `delta` of a DC_CODE that is not the candidate (R104, R164): a listed
word, or the shortest word of the free code within its reach. -/
def NextDcWord (s : State) (luma : Bool) (len : Nat) (delta : Int) : Prop :=
  match s.cfg.dcCode with
  | .candidate => False
  | .table y c => ⟨nextBits s len, delta⟩ ∈ (if luma then y else c)
  | .free => 1 ≤ len ∧ Config.freeDcWord luma (nextBits s len) = some delta
      ∧ (∀ m, 1 ≤ m → m < len → Config.freeDcWord luma (nextBits s m) = none)
      ∧ len ≤ Config.freeDcReach luma (dropZeros (nextBits s (8 * (s.cursor.srcEnd - s.cursor.srcBase) + 16)))

/-- π of R265: the place in the verbatim image of the reorganised pixel (x, y). -/
def reorgIndex (x y : Nat) : Nat :=
  if x < 256 then 256 * y + x
  else if y < 128 then 65536 + 128 * y + (x - 256)
  else 65536 + 128 * (y - 128) + (x - 192)

/-- The values of GetBits for a list of widths, as bits in order (R144, R151). -/
def getBitsAll (m : Memory) : Cursor → List Nat → List Bool
  | _, [] => []
  | c, n :: ns => natBits n (c.peek n) ++ getBitsAll m (c.advance m n) ns

end Sys2Proof.Machine
end

