-- ==== Sys2Proof/Certificates/Slice0/Obligations.lean ====
section
/-! DEFINITION. The statements about this machine, for the provers. `popHost s` is `s` with the turn it takes removed from the
list of host actions; on a state with no host action pending it is `s`. -/

section

open Sys2Proof Sys2Proof.Machine

/-- For every configuration c, every instruction i that is well-formed under c, and whatever follows it in its stream
or record: the decoder, in the context i is read in, answers i. -/
def Obligations.DecodeEncodedInstruction : Prop :=
  ∀ (c : Config) (i : Instr) (moreBits : List Bool) (moreBytes : List Byte), WellFormed c i = true →
    decode c i.context ((encode c i).followedBy moreBits moreBytes) = .ok i

/-- If the decoder, in one of the four stream contexts, answers instruction i on 23 or more bits b, then i is
well-formed, i is read in that context, and b begins with the encoding of i: no bit of a code word is misread and none
is dropped. -/
def Obligations.StreamCodesReadBack : Prop :=
  ∀ (c : Config) (x : Context) (b : List Bool) (i : Instr),
    x ∈ [Context.dcFlat, Context.dcLuma, Context.dcChroma, Context.acItem] → 23 ≤ b.length →
    decode c x (.bits b) = .ok i →
      WellFormed c i = true ∧ i.context = x ∧ ∃ e rest, encode c i = .bits e ∧ b = e ++ rest

/-- The 222 AC items (111 codes, both sign values) with EOB_CODE and ESC_CODE are prefix-free; their Kraft sum is 1 -
2^-12 (in units of 2^-17); and a string of 17 or more bits matches a member exactly when it does not begin with twelve
zeros. -/
def Obligations.AcCodeUnusedSpace : Prop :=
  let items := eobCode :: escCode ::
    acTable.flatMap fun e => [natBits e.codeLen e.code ++ [false], natBits e.codeLen e.code ++ [true]]
  acTable.length = 111 ∧ codesPrefixFree items = true
  ∧ (items.map fun b => 2 ^ (17 - b.length)).sum = 2 ^ 17 - 2 ^ 5
  ∧ ∀ b : List Bool, 17 ≤ b.length →
      ((∃ i, decodeAc .spec b = .ok i) ↔ b.take 12 ≠ List.replicate 12 false)

/-- With the reference candidate for DC_CODE, a luma DC item decodes exactly when the next bits are not seven ones,
and a chroma DC item exactly when they are not eight ones. DC_FLAT decodes any bits. The candidate is one value of an
OPEN parameter (log entry 1). -/
def Obligations.DcCodeUnusedPatterns : Prop :=
  ∀ (c : Config) (b : List Bool), c.dcCode = .candidate → 8 ≤ b.length →
    ((∃ i, decode c .dcLuma (.bits b) = .ok i) ↔ b.take 7 ≠ List.replicate 7 true)
    ∧ ((∃ i, decode c .dcChroma (.bits b) = .ok i) ↔ b.take 8 ≠ List.replicate 8 true)
    ∧ (∃ i, decode c .dcFlat (.bits b) = .ok i)

/-- A few words, one or more for each family of the opcode table, decode to the instructions they stand for. The
values are the model's choice, no rule of the spec: the reference configuration holds candidates and test-only values
for the OPEN parameters (SEG_TYPE_ID 0x3800, TEX_MAGIC 0x10 and type 0x08, the pattern 0xA5A5, the DC candidate; log
entry 1), and a word without its context is read by its size (log entry 18; for the raw chunk, log entry 21). -/
def Obligations.WordsOfTheTableDecode : Prop :=
  decodeTableWord 24 0x18000 = some (.acR0L1 false)
  ∧ decodeTableWord 24 0x00037 = some (.acR31L1 true)
  ∧ decodeTableWord 24 0x10000 = some .eob
  ∧ decode Machine.referenceConfig .acItem (.bits
      [false, false, false, false, false, true, false, false, false, false, true, true,
       true, true, true, true, true, true, true, true, true, true, false]) = .ok (.esc 3 0x7FE)
  ∧ decodeTableWord 16 0x03FE = some (.dcf 0x3FE)
  ∧ decode Machine.referenceConfig .dcLuma (.bits [true, false, true, false, true, true]) = .ok (.dcy3 3)
  ∧ decode Machine.referenceConfig .dcChroma (.bits [true, false, true, false]) = .ok (.dcc2 2)
  ∧ decodeTableWord 64 0x0003000138000000 = some (.segHdr 0 0x3800 1 3)
  ∧ decodeTableWord 64 0x0000000800000010 = some (.tiledTex 0x10 0x08)
  ∧ decodeTableWord 1310720 0x00010000 = some .rawChunk
  ∧ decodeTableWord 16 0xA5A5 = some (.texPrefix 0xA5A5)
  ∧ decodeTableWord 32 0x00000005 = some (.start false true false)
  ∧ decodeTableWord 32 0x0000000A = some (.ctrlSet true false true)

/-- A CTRL write of the host whose turn it is runs the instruction it decodes to. On the turn of the engine, in each
decoding phase and stage, when the bits or bytes at the decode position decode to i, step is exec of i on the state
less its turn. With no host action pending, the state less its turn is the state. -/
def Obligations.StepRunsDecodedInstruction : Prop :=
  ∀ (s : State) (i : Instr),
    (∀ v rest, s.host = .regWrite 0 4 v :: rest → decodeHost v = i → step s = exec i { s with host := rest })
    ∧ (EngineTurn s → s.phase = .segDecode → s.stage = .dcItem →
        decode s.cfg (dcContext s) (.bits (lookahead s)) = .ok i → step s = exec i (popHost s))
    ∧ (EngineTurn s → s.phase = .segDecode → s.stage = .acItem →
        decode s.cfg .acItem (.bits (lookahead s)) = .ok i → step s = exec i (popHost s))
    ∧ (EngineTurn s → s.phase = .segHdr → s.cur < s.inLen.toNat →
        decode s.cfg .segHdr (.bytes (s.mem.bytes s.cur (min 8 (s.inLen.toNat - s.cur)))) = .ok i →
        step s = exec i (popHost s))
    ∧ (EngineTurn s → s.phase = .tiled → s.stage ≠ .advance → s.stage ≠ .terminal → s.cur < s.inLen.toNat →
        decode s.cfg (.tiled (s.inLen.toNat - s.cur))
          (.bytes (s.mem.bytes s.cur (min 8 (s.inLen.toNat - s.cur)))) = .ok i →
        step s = exec i (popHost s))
    ∧ (EngineTurn s → s.phase = .segProbe →
        decode s.cfg .probe (.bytes (s.mem.bytes (probeOffset s) (min 2 (segmentEnd s - probeOffset s)))) = .ok i →
        step s = exec i (popHost s))
    ∧ (s.host = [] → popHost s = s)

/-- In SEG_DECODE, with the cursor in its invariant: if the stream bits from BITPOS on begin with the encoding of a
well-formed instruction i, then step is exec of i when i is an AC item at the AC stage; at the DC stage, when FLAT = 1
and i is DC_FLAT, when FLAT = 0, the role of the block at BLK is Y0, Y1, Y2 or Y3 and i is of the luma code, and when
FLAT = 0, the role is Cb or Cr and i is of the chroma code. It holds for every configuration, whatever bits follow,
near and past the end of the region as well. The channel of a block is Y for the roles Y0 to Y3, Cb for Cb and Cr for
Cr. -/
def Obligations.StreamBitsRunTheirInstruction : Prop :=
  (∀ (s : State) (i : Instr) (e : List Bool), EngineTurn s → s.phase = .segDecode → CursorOk s.mem s.cursor →
    WellFormed s.cfg i = true → encode s.cfg i = .bits e → StreamBegins s.mem s.cursor e →
    (s.stage = .acItem ∧ i.context = .acItem)
      ∨ (s.stage = .dcItem ∧ s.hdr.flat = true ∧ i.context = .dcFlat)
      ∨ (s.stage = .dcItem ∧ s.hdr.flat = false ∧ i.context = .dcLuma
          ∧ ∃ r ∈ [Role.y0, Role.y1, Role.y2, Role.y3], s.cfg.blockRole[s.blk]? = some r)
      ∨ (s.stage = .dcItem ∧ s.hdr.flat = false ∧ i.context = .dcChroma
          ∧ ∃ r ∈ [Role.cb, Role.cr], s.cfg.blockRole[s.blk]? = some r) →
      step s = exec i (popHost s))
  ∧ ∀ (s : State) (r : Role), s.cfg.blockRole[s.blk]? = some r →
      (r ∈ [Role.y0, Role.y1, Role.y2, Role.y3] → s.channel = .y) ∧ (r = .cb → s.channel = .cb)
      ∧ (r = .cr → s.channel = .cr)

/-- Every instruction read in the AC context is EOB, an escape, or one of the 111 rows. For each row and both signs,
in every state, exec answers a next state: Consume of the code length and of 1 bit (with the Overrun reports of log
entry 8), one more entry with its capacity check, then AdvanceStore of the run and the signed magnitude: stored at K +
run + 1 while that is at most 63, otherwise dropped with K at 64, OOR_COUNT one higher (saturating) and the poison
mark under that policy. Nothing else changes. Under another legal AC_TABLE, a step at the AC stage whose stream bits
are a row's code and sign bit has the same effect with that row's run and magnitude, its code taken in Consumes of at
most 16 bits (such a row is an engine step, log entry 17). That one sign bit, 1 for negative, follows the code of
every row of another table, and which tables are legal, are the model's choices (log entries 32 and 30), and no rule
is cited for them. -/
def Obligations.AcTableItems : Prop :=
  (∀ i : Instr, i.context = .acItem →
    i = .eob ∨ (∃ run level, i = .esc run level) ∨ ∃ e ∈ acTable, ∃ neg, i = e.instr neg)
  ∧ (∀ e ∈ acTable, ∀ (neg : Bool) (s : State), ∃ t, exec (e.instr neg) s = .next t
      ∧ AcEffect s t [e.codeLen, 1] e.run (if neg then -(e.mag : Int) else (e.mag : Int)))
  ∧ ∀ (s : State) (rows : List AcRow) (eob esc : List Bool), EngineTurn s → s.phase = .segDecode →
      s.stage = .acItem → CursorOk s.mem s.cursor → s.cfg.acCode = .table rows eob esc → s.cfg.acCode.legal = true →
      ∀ row ∈ rows, ∀ neg : Bool, StreamBegins s.mem s.cursor (row.code ++ [neg]) →
        ∃ t ws, PiecesOf row.code.length ws ∧ step s = .next t
          ∧ AcEffect (popHost s) t (ws ++ [1]) row.run (if neg then -(row.mag : Int) else (row.mag : Int))

/-- For every run and level field and every state, exec of the escape answers a next state: Consumes of 6, 6 and 11
bits (with the Overrun reports of log entry 8), one more entry, then AdvanceStore of the run (unsigned) and the level
(two's complement). Nothing else changes. Under another legal AC_TABLE with its own ESC_CODE, a step at the AC stage
on that code, a 6-bit run and an 11-bit level has the same effect (an engine step, log entry 17). Under the table of
R110, the bits of each of the tokens AC r,l, ESC r,l and AC* r,l, whatever follows them, decode to an instruction that
stores level l at r + 1 further, so an escape of a pair that the table can express does what the table code does. ESC
r,l stands for bits exactly when r is at most 63 and l in -1024..1023, and under that table so does AC* r,l. -/
def Obligations.EscapeItems : Prop :=
  (∀ (run : BitVec 6) (level : BitVec 11) (s : State), ∃ t, exec (.esc run level) s = .next t
    ∧ AcEffect s t [6, 6, 11] run.toNat level.toInt)
  ∧ (∀ (s : State) (rows : List AcRow) (eob esc : List Bool), EngineTurn s → s.phase = .segDecode →
      s.stage = .acItem → CursorOk s.mem s.cursor → s.cfg.acCode = .table rows eob esc → s.cfg.acCode.legal = true →
      ∀ (run : BitVec 6) (level : BitVec 11),
        StreamBegins s.mem s.cursor (esc ++ natBits 6 run.toNat ++ natBits 11 level.toNat) →
        ∃ t ws, PiecesOf esc.length ws ∧ step s = .next t
          ∧ AcEffect (popHost s) t (ws ++ [6, 11]) run.toNat level.toInt)
  ∧ (∀ (c : Config) (run : Nat) (level : Int) (tok : Token) (b more : List Bool), c.acCode = .spec →
      tok ∈ [Token.ac run level, .esc run level, .acStar run level] → tok.stream? c = some b →
      ∃ i, decode c .acItem (.bits (b ++ more)) = .ok i
        ∧ ∀ s : State, ∃ t ws, exec i s = .next t ∧ AcEffect s t ws run level)
  ∧ ∀ (c : Config) (run : Nat) (level : Int),
      (((Token.esc run level).stream? c).isSome = true ↔ run ≤ 63 ∧ -1024 ≤ level ∧ level ≤ 1023)
      ∧ (c.acCode = .spec →
        (((Token.acStar run level).stream? c).isSome = true ↔ run ≤ 63 ∧ -1024 ≤ level ∧ level ≤ 1023))

/-- In every state, exec of EOB answers a next state: one Consume of 2 bits, one more entry with its capacity check,
and the block goes on to its reconstruction. LEVEL, K and everything else are unchanged. Under another legal AC_TABLE
with its own EOB_CODE, a step at the AC stage on that code does the same (an engine step, log entry 17). -/
def Obligations.EndOfBlockItem : Prop :=
  (∀ s : State, ∃ t, exec .eob s = .next t ∧ Consumes s t [2] ∧ CountsEntry s t
    ∧ t = { s with
        cursor := t.cursor, overrunCount := t.overrunCount, entryCount := t.entryCount, segcapCount := t.segcapCount,
        stage := .reconstruct })
  ∧ ∀ (s : State) (rows : List AcRow) (eob esc : List Bool), EngineTurn s → s.phase = .segDecode →
      s.stage = .acItem → CursorOk s.mem s.cursor → s.cfg.acCode = .table rows eob esc → s.cfg.acCode.legal = true →
      StreamBegins s.mem s.cursor eob →
        ∃ t ws, PiecesOf eob.length ws ∧ step s = .next t ∧ Consumes (popHost s) t ws ∧ CountsEntry (popHost s) t
          ∧ t = { popHost s with
              cursor := t.cursor, overrunCount := t.overrunCount, entryCount := t.entryCount,
              segcapCount := t.segcapCount, stage := .reconstruct }

/-- For every literal and every state, exec of DC_FLAT answers a next state: LEVEL is the signed literal and then 63
zeros, K is 0, QTAG is HDR_QUANT, one entry is counted, one Consume of 10 bits. The predictors are those the block
starts with (cleared only under DC_RESET_PER_MB at BLK = 0). Nothing else changes. -/
def Obligations.FlatDcItems : Prop :=
  ∀ (d : BitVec 10) (s : State), ∃ t, exec (.dcf d) s = .next t
    ∧ DcEffect s t [10] d.toInt (startPred s)

/-- Every instruction read in the luma DC context is a row of the candidate with a literal below 2^size. For each row
and literal b, in every state, exec answers a next state: Consumes of the size code and of the literal (two of them,
log entry 16, with the Overrun reports of log entry 8); delta is 0 for size 0, b when the top bit of b is 1, else b -
(2^size - 1); PRED[Y] and LEVEL[0] are the old PRED[Y] (cleared first under DC_RESET_PER_MB at BLK = 0) plus 4 times
delta; the other two predictors are as the block starts with them. Under any other legal DC_CODE, a step at the DC
stage of a block of channel Y with FLAT = 0 whose next stream bits are a luma word for delta does the same, in
Consumes of at most 16 bits (an engine step, log entry 17). -/
def Obligations.LumaDcItems : Prop :=
  (∀ i : Instr, i.context = .dcLuma → ∃ e ∈ dcLumaTable, ∃ b, b < 2 ^ e.size ∧ i = e.instr b)
  ∧ (∀ e ∈ dcLumaTable, ∀ b : Nat, b < 2 ^ e.size → ∀ (delta : Int) (s : State),
      (e.size = 0 → delta = 0) → (e.size ≠ 0 → 2 ^ (e.size - 1) ≤ b → delta = b) →
      (e.size ≠ 0 → b < 2 ^ (e.size - 1) → delta = (b : Int) - (2 ^ e.size - 1)) →
      ∃ t, exec (e.instr b) s = .next t
        ∧ DcEffect s t (e.codeLen :: if e.size = 0 then [] else [e.size]) ((startPred s).y + 4 * delta)
            { startPred s with y := (startPred s).y + 4 * delta })
  ∧ ∀ s : State, EngineTurn s → s.phase = .segDecode → s.stage = .dcItem → s.hdr.flat = false →
      CursorOk s.mem s.cursor → s.cfg.dcCode.legal = true → s.channel = .y →
      ∀ (len : Nat) (delta : Int), NextDcWord s true len delta →
        ∃ t ws, PiecesOf len ws ∧ step s = .next t
          ∧ DcEffect (popHost s) t ws ((startPred s).y + 4 * delta)
              { startPred s with y := (startPred s).y + 4 * delta }

/-- As for luma, with the chroma column of the candidate and the predictor of the channel of the block being decoded
(Cb or Cr by BLOCK_ROLE). The fetch reads these items for chroma roles only; on a state whose block is luma they
update PRED[Y], the model's choice (log entry 25). The other two predictors are as the block starts with them. Under
any other legal DC_CODE, a step at the DC stage of a block of channel Cb or Cr with FLAT = 0 whose next stream bits
are a chroma word for delta does the same (an engine step, log entry 17). -/
def Obligations.ChromaDcItems : Prop :=
  (∀ i : Instr, i.context = .dcChroma → ∃ e ∈ dcChromaTable, ∃ b, b < 2 ^ e.size ∧ i = e.instr b)
  ∧ (∀ e ∈ dcChromaTable, ∀ b : Nat, b < 2 ^ e.size → ∀ (delta : Int) (s : State),
      (e.size = 0 → delta = 0) → (e.size ≠ 0 → 2 ^ (e.size - 1) ≤ b → delta = b) →
      (e.size ≠ 0 → b < 2 ^ (e.size - 1) → delta = (b : Int) - (2 ^ e.size - 1)) →
      (s.channel = .cb → ∃ t, exec (e.instr b) s = .next t
        ∧ DcEffect s t (e.codeLen :: if e.size = 0 then [] else [e.size]) ((startPred s).cb + 4 * delta)
            { startPred s with cb := (startPred s).cb + 4 * delta })
      ∧ (s.channel = .cr → ∃ t, exec (e.instr b) s = .next t
        ∧ DcEffect s t (e.codeLen :: if e.size = 0 then [] else [e.size]) ((startPred s).cr + 4 * delta)
            { startPred s with cr := (startPred s).cr + 4 * delta })
      ∧ (s.channel = .y → ∃ t, exec (e.instr b) s = .next t
        ∧ DcEffect s t (e.codeLen :: if e.size = 0 then [] else [e.size]) ((startPred s).y + 4 * delta)
            { startPred s with y := (startPred s).y + 4 * delta }))
  ∧ ∀ s : State, EngineTurn s → s.phase = .segDecode → s.stage = .dcItem → s.hdr.flat = false →
      CursorOk s.mem s.cursor → s.cfg.dcCode.legal = true →
      ∀ (len : Nat) (delta : Int), NextDcWord s false len delta →
        (s.channel = .cb → ∃ t ws, PiecesOf len ws ∧ step s = .next t
          ∧ DcEffect (popHost s) t ws ((startPred s).cb + 4 * delta)
              { startPred s with cb := (startPred s).cb + 4 * delta })
        ∧ (s.channel = .cr → ∃ t ws, PiecesOf len ws ∧ step s = .next t
          ∧ DcEffect (popHost s) t ws ((startPred s).cr + 4 * delta)
              { startPred s with cr := (startPred s).cr + 4 * delta })

/-- For every four fields and every state, exec of SEG_HDR answers the state with the header registers loaded, FLAT =
1 exactly when the version is in FLAT_VERSIONS, SEG_COUNT one higher (saturating) and PHASE = SEG_DECODE; nothing else
changes. -/
def Obligations.SegmentHeaderItem : Prop :=
  ∀ (length typeId quant version : Half) (s : State),
    exec (.segHdr length typeId quant version) s = .next { s with
      hdr := { length := length, typeId := typeId, quant := quant, version := version,
               flat := decide (version ∈ s.cfg.flatVersions) }
      segCount := if s.segCount = 0xFFFFFFFF then s.segCount else s.segCount + 1
      phase := .segDecode
      stage := .first }

/-- In every state, exec of TILED_TEX answers the state with the bytes IN[CUR .. N-1] on the output port as a native
texture under index OUT_COUNT, HOLD = 1, OUT_COUNT and SEG_COUNT one higher (saturating), and the end of the run next;
nothing else changes. -/
def Obligations.NativeTextureChunk : Prop :=
  ∀ (magic typ : Word) (s : State), ∃ b, BytesAt s.mem s.cur (s.inLen.toNat - s.cur) b
    ∧ exec (.tiledTex magic typ) s = .next { s with
        segCount := satInc s.segCount
        outCount := satInc s.outCount
        pending := some (.nativeTexture s.outCount b)
        status := { s.status with hold := true }
        stage := .terminal }

/-- With a whole chunk between CUR and IN_LEN, exec of RAW_CHUNK answers a next state with an image of 81920 pixels on
the output port: with REORG = 1 the 320 by 256 image of region A on the left and the two halves of region B stacked on
the right, with REORG = 0 the 256 by 320 image in file order, each pixel the little-endian 16-bit value in IN. FRAME
holds the image (log entry 9); SEG_COUNT and OUT_COUNT are one higher (saturating); nothing else changes. -/
def Obligations.RawChunkImages : Prop :=
  ∀ s : State, s.cur + 163840 ≤ s.inLen.toNat → ∃ (px : List Half) (w h : Nat),
    exec .rawChunk s = .next { s with
      segCount := satInc s.segCount
      outCount := satInc s.outCount
      frame := px
      pending := some (.image s.outCount px w h 16)
      status := { s.status with hold := true }
      stage := .advance }
    ∧ px.length = 81920
    ∧ (s.ctrl.reorg = true → w = 320 ∧ h = 256 ∧ ∀ x y, x < 320 → y < 256 →
        px.getD (320 * y + x) 0 =
          if x < 256 then half s.mem (s.cur + 2 * (256 * y + x))
          else if y < 128 then half s.mem (s.cur + 131072 + 2 * (128 * y + (x - 256)))
          else half s.mem (s.cur + 131072 + 2 * (128 * (y - 128) + (x - 256 + 64))))
    ∧ (s.ctrl.reorg = false → w = 256 ∧ h = 320 ∧ ∀ x y, x < 256 → y < 320 →
        px.getD (256 * y + x) 0 = half s.mem (s.cur + 2 * (256 * y + x)))

/-- When fewer than 163840 bytes stand between CUR and IN_LEN, exec of RAW_CHUNK is the fault readOutsideInput: the
model's choice (log entry 15) for an access the spec says is never issued. The classifier never issues the instruction
then. -/
def Obligations.RawChunkWithoutRoomFaults : Prop :=
  ∀ s : State, s.inLen.toNat < s.cur + 163840 → exec .rawChunk s = .fault .readOutsideInput

/-- Let P be CUR + 8 + 2 ceil(BITPOS / 16), E the segment end, and b the bytes IN[P .. E-1]. exec of TEX_PREFIX
answers a next state with CUR 65536 further and PHASE = SEG_HDR: with no record or an empty one nothing else changes;
a record inside [P, E) goes to the output port as a native texture; one that starts before P or ends after E counts
one overrun (saturating). That the record goes to the port and CUR and PHASE move on in one and the same step is the
model's reading of TextureRecord then NextSegment (log entry 24). -/
def Obligations.TexturePatternRecord : Prop :=
  ∀ (p : Half) (s : State) (b : List Byte),
    BytesAt s.mem (s.cur + 8 + 2 * ((s.cursor.bitpos + 15) / 16))
      (min (s.cur + 65536) s.inLen.toNat - (s.cur + 8 + 2 * ((s.cursor.bitpos + 15) / 16))) b →
    (texRecordAt s.cfg b (s.cur + 8 + 2 * ((s.cursor.bitpos + 15) / 16)) = none →
      exec (.texPrefix p) s = .next { s with cur := s.cur + 65536, phase := .segHdr, stage := .first })
    ∧ ∀ start len, texRecordAt s.cfg b (s.cur + 8 + 2 * ((s.cursor.bitpos + 15) / 16)) = some (start, len) →
      (len = 0 → exec (.texPrefix p) s = .next { s with cur := s.cur + 65536, phase := .segHdr, stage := .first })
      ∧ (1 ≤ len → s.cur + 8 + 2 * ((s.cursor.bitpos + 15) / 16) ≤ start →
          start + len ≤ min (s.cur + 65536) s.inLen.toNat →
          ∃ r, BytesAt s.mem start len r ∧ exec (.texPrefix p) s = .next { s with
            outCount := satInc s.outCount
            pending := some (.nativeTexture s.outCount r)
            status := { s.status with hold := true }
            cur := s.cur + 65536
            phase := .segHdr
            stage := .first })
      ∧ (1 ≤ len → start < s.cur + 8 + 2 * ((s.cursor.bitpos + 15) / 16)
            ∨ min (s.cur + 65536) s.inLen.toNat < start + len →
          exec (.texPrefix p) s = .next { s with
            overrunCount := satInc s.overrunCount
            cur := s.cur + 65536
            phase := .segHdr
            stage := .first })

/-- With BUSY = 0, exec of START answers the state with CTRL as written, the five counters, END_POS and END_INFO
cleared, STATUS with BUSY = 1 and every other field 0, PENDING empty, CUR = 0 and PHASE = START_CHECK; nothing else
changes. -/
def Obligations.StartCommand : Prop :=
  ∀ (mode reorg srcErr : Bool) (s : State), s.status.busy = false →
    exec (.start mode reorg srcErr) s = .next { s with
      ctrl := { mode := mode, reorg := reorg, srcErr := srcErr }
      outCount := 0
      segCount := 0
      oorCount := 0
      overrunCount := 0
      segcapCount := 0
      endPos := 0
      endInfo := 0
      status := { busy := true, done := false, success := false, fatal := false, hold := false, endReason := .none }
      pending := none
      cur := 0
      phase := .startCheck
      stage := .first }

/-- With BUSY = 0, exec of CTRL_SET answers the state with the three CTRL fields as written; nothing else changes. -/
def Obligations.ControlSetCommand : Prop :=
  ∀ (mode reorg srcErr : Bool) (s : State), s.status.busy = false →
    exec (.ctrlSet mode reorg srcErr) s = .next { s with ctrl := { mode := mode, reorg := reorg, srcErr := srcErr } }

/-- With BUSY = 1, exec of START and of CTRL_SET answers the state unchanged. A CTRL value reads as START or CTRL_SET
by bit 0, with MODE, REORG and SRC_ERR from bits 1 to 3, whatever its upper bits. -/
def Obligations.ControlWritesIgnoredWhileBusy : Prop :=
  (∀ (mode reorg srcErr : Bool) (s : State), s.status.busy = true →
    exec (.start mode reorg srcErr) s = .next s ∧ exec (.ctrlSet mode reorg srcErr) s = .next s)
  ∧ ∀ v w : Word, (∀ j, j < 4 → v.getLsbD j = w.getLsbD j) →
      decodeHost v = decodeHost w
      ∧ (v.getLsbD 0 = true → decodeHost v = .start (v.getLsbD 1) (v.getLsbD 2) (v.getLsbD 3))
      ∧ (v.getLsbD 0 = false → decodeHost v = .ctrlSet (v.getLsbD 1) (v.getLsbD 2) (v.getLsbD 3))

/-- In START_CHECK: SRC_ERR = 1 ends the run IO_ERROR; otherwise a raster need (81920 pixels in tiled mode, FRAME_W
FRAME_H in segmented mode) above FRAME_CAPACITY ends it ALLOC_FAILURE; otherwise PHASE is TILED or SEG_HDR by MODE.
FRAME then has the need's size, all zeros (log entry 9). -/
def Obligations.RunStartChecks : Prop :=
  ∀ (s : State) (need : Nat), EngineTurn s → s.phase = .startCheck →
    need = (if s.ctrl.mode = false then 81920 else s.cfg.frameW * s.cfg.frameH) →
    (s.ctrl.srcErr = true → step s = .next (runEnd .ioError (popHost s)))
    ∧ (s.ctrl.srcErr = false → s.cfg.frameCapacity < need → step s = .next (runEnd .allocFailure (popHost s)))
    ∧ (s.ctrl.srcErr = false → need ≤ s.cfg.frameCapacity →
        step s = .next { popHost s with
          phase := if s.ctrl.mode = false then .tiled else .segHdr
          stage := .first
          frame := List.replicate need 0 })

/-- RunEnd(reason) sets END_REASON, FATAL = 1 exactly for IO_ERROR and ALLOC_FAILURE, END_POS = 0 when fatal and
min(CUR, IN_LEN) otherwise, SUCCESS = 1 exactly when OUT_COUNT is at least 1 and FATAL = 0, BUSY = 0, DONE = 1, HOLD =
0 and PHASE = ENDED; nothing else changes (the model's stage is its first one). -/
def Obligations.RunEndRecord : Prop :=
  ∀ (reason : EndReason) (s : State) (fatal : Bool),
    (fatal = true ↔ reason = .ioError ∨ reason = .allocFailure) →
    runEnd reason s = { s with
      status :=
        { busy := false, done := true, success := decide (1 ≤ s.outCount.toNat ∧ fatal = false), fatal := fatal,
          hold := false, endReason := reason }
      endPos := if fatal then 0 else BitVec.ofNat 32 (min s.cur s.inLen.toNat)
      phase := .ended
      stage := .first }

/-- At CUR >= N the run ends END_OF_INPUT. With 8 bytes left and the magic at CUR, a known type runs TILED_TEX and any
other type is unknown; without the magic, 163840 bytes left run RAW_CHUNK and fewer are unknown. An unknown chunk goes
to the output port as IN[CUR .. N-1], counted in SEG_COUNT and OUT_COUNT, with the end of the run next. -/
def Obligations.TiledChunkStep : Prop :=
  ∀ s : State, EngineTurn s → s.phase = .tiled → s.stage ≠ .advance → s.stage ≠ .terminal →
    ∀ (magic : Prop) (typ : Word),
    (magic ↔ s.cur + 8 ≤ s.inLen.toNat ∧ s.mem.memRead s.cur 4 = s.cfg.texMagic.toNat) →
    typ = BitVec.ofNat 32 (s.mem.memRead (s.cur + 4) 4) →
    (s.inLen.toNat ≤ s.cur → step s = .next (runEnd .endOfInput (popHost s)))
    ∧ (magic → typ ∈ s.cfg.texTypes → step s = exec (.tiledTex s.cfg.texMagic typ) (popHost s))
    ∧ (¬ magic → s.cur + 163840 ≤ s.inLen.toNat → step s = exec .rawChunk (popHost s))
    ∧ (s.cur < s.inLen.toNat → (magic ∧ typ ∉ s.cfg.texTypes) ∨ (¬ magic ∧ s.inLen.toNat < s.cur + 163840) →
        ∃ b, BytesAt s.mem s.cur (s.inLen.toNat - s.cur) b
          ∧ step s = .next { popHost s with
              segCount := satInc s.segCount
              outCount := satInc s.outCount
              pending := some (.rawVerbatim s.outCount b)
              status := { s.status with hold := true }
              stage := .terminal })

/-- In TILED, the step after a raw image moves CUR by 163840 and stays in TILED, and the step after a texture or an
unknown chunk ends the run TERMINAL_CHUNK. In SEG_DECODE, the step after the frame goes to SEG_PROBE. Nothing else
changes but the model's own stage (log entry 11). -/
def Obligations.StepsAfterAccept : Prop :=
  ∀ s : State, EngineTurn s →
    (s.phase = .tiled → s.stage = .advance →
      step s = .next { popHost s with cur := s.cur + 163840, stage := .first })
    ∧ (s.phase = .tiled → s.stage = .terminal → step s = .next (runEnd .terminalChunk (popHost s)))
    ∧ (s.phase = .segDecode → s.stage = .toProbe →
        step s = .next { popHost s with phase := .segProbe, stage := .first })

/-- At CUR >= N the run ends END_OF_INPUT; with fewer than 8 bytes left, or a type-id other than SEG_TYPE_ID, or a
version outside VALID_VERSIONS, it ends FORMAT_MISMATCH; otherwise the step is exec of SEG_HDR with the four
little-endian fields at CUR. -/
def Obligations.SegmentHeaderStep : Prop :=
  ∀ s : State, EngineTurn s → s.phase = .segHdr →
    (s.inLen.toNat ≤ s.cur → step s = .next (runEnd .endOfInput (popHost s)))
    ∧ (s.cur < s.inLen.toNat → s.inLen.toNat < s.cur + 8 → step s = .next (runEnd .formatMismatch (popHost s)))
    ∧ (s.cur + 8 ≤ s.inLen.toNat →
        half s.mem (s.cur + 2) ≠ s.cfg.segTypeId ∨ half s.mem (s.cur + 6) ∉ s.cfg.validVersions →
        step s = .next (runEnd .formatMismatch (popHost s)))
    ∧ (s.cur + 8 ≤ s.inLen.toNat →
        half s.mem (s.cur + 2) = s.cfg.segTypeId → half s.mem (s.cur + 6) ∈ s.cfg.validVersions →
        step s = exec (.segHdr (half s.mem s.cur) (half s.mem (s.cur + 2)) (half s.mem (s.cur + 4))
          (half s.mem (s.cur + 6))) (popHost s))

/-- The step puts CursorInit(CUR + 8, min(CUR + 65536, N)) into the cursor, clears the three predictors, MB, BLK and
ENTRY_COUNT, and goes on with the first block (with the frame when MB_COUNT is 0, which no legal frame size gives: the
model's choice, log entry 13); nothing else changes. -/
def Obligations.SegmentInitStep : Prop :=
  ∀ s : State, EngineTurn s → s.phase = .segDecode → s.stage = .first →
    step s = .next { popHost s with
      cursor := Cursor.init s.mem (s.cur + 8) (min (s.cur + 65536) s.inLen.toNat)
      pred := { y := 0, cb := 0, cr := 0 }
      mb := 0
      blk := 0
      entryCount := 0
      stage := if s.cfg.mbCount = 0 then .emitFrame else .dcItem }

/-- At the AC stage, with the table of R110 and the cursor in its invariant: if the next twelve stream bits are 0, the
step writes END_INFO = BLK 2^16 + (MB mod 2^16) and ends the run VLC_MISMATCH. The cursor and every counter stay, and
no frame is emitted. The same under another AC_TABLE when the stream bits begin with no row's code, not with its
EOB_CODE and not with its ESC_CODE. -/
def Obligations.AcMismatchStep : Prop :=
  ∀ s : State, EngineTurn s → s.phase = .segDecode → s.stage = .acItem → CursorOk s.mem s.cursor →
    (s.cfg.acCode = .spec ∧ StreamBegins s.mem s.cursor (List.replicate 12 false))
      ∨ (∃ rows eob esc, s.cfg.acCode = .table rows eob esc
          ∧ ∀ code ∈ eob :: esc :: rows.map AcRow.code, ¬ StreamBegins s.mem s.cursor code) →
      step s = .next (runEnd .vlcMismatch
        { popHost s with endInfo := BitVec.ofNat 32 (s.blk * 65536 + s.mb % 65536) })

/-- At the DC stage with FLAT = 0 and the cursor in its invariant: under the candidate DC code seven 1 bits in a luma
block, eight in a chroma block, and under any other DC_CODE stream bits that begin with no word of the block's code,
end the run VLC_MISMATCH with END_INFO. The block's start has cleared LEVEL, K and the poison mark and applied
DC_RESET_PER_MB (the model's reading, log entry 12); the cursor and every counter stay. -/
def Obligations.DcMismatchStep : Prop :=
  ∀ s : State, EngineTurn s → s.phase = .segDecode → s.stage = .dcItem → s.hdr.flat = false →
    CursorOk s.mem s.cursor →
    (s.cfg.dcCode = .candidate
        ∧ StreamBegins s.mem s.cursor (List.replicate (if s.channel = .y then 7 else 8) true))
      ∨ (s.cfg.dcCode ≠ .candidate ∧ ∀ len delta, ¬ NextDcWord s (decide (s.channel = .y)) len delta) →
      step s = .next (runEnd .vlcMismatch
        { popHost s with
          endInfo := BitVec.ofNat 32 (s.blk * 65536 + s.mb % 65536)
          level := List.replicate 64 0
          k := 0
          poisoned := false
          pred := startPred s })

/-- At the reconstruction stage the step writes 64 samples in the channel's range to BPIX of the block's role: for an
unmarked block the level shift of the inverse DCT of the de-zigzagged terms rec, where rec[0] is DequantDC of LEVEL[0]
and rec[k] is DequantAC of LEVEL[k] with QTAG at position k, for k = 1..63; for a marked block any values in the
range. BLK goes on to the next position, or the tile is next after BLK = 5, where BLK stays at 5 (log entry 13);
nothing else changes but the model's draw counter. -/
def Obligations.BlockReconstructStep : Prop :=
  ∀ s : State, EngineTurn s → s.phase = .segDecode → s.stage = .reconstruct → ∃ (px : List Int) (drawn : Nat),
    samplesOk s.channel px
    ∧ (s.poisoned = false → drawn = s.draws ∧ ∃ rec : List Int, rec.length = 64
        ∧ rec.getD 0 0 = dequantDc s.cfg (s.level.getD 0 0)
        ∧ (∀ k, 1 ≤ k → k < 64 → rec.getD k 0 = dequantAc s.cfg s.qtag k (s.level.getD k 0))
        ∧ px = (idct2d s.cfg (deZigzag s.cfg rec)).map (levelShift s.cfg s.channel))
    ∧ step s = .next { popHost s with
        bpix := s.bpix.set s.role px
        draws := drawn
        blk := if s.blk < 5 then s.blk + 1 else s.blk
        stage := if s.blk < 5 then .dcItem else .mergePlace }

/-- At the tile stage the step writes TILE and the tile's place in FRAME, and goes on with BLK = 0 of the next
macroblock, or with the frame after the last, where MB and BLK stay (log entry 13); nothing else changes. -/
def Obligations.TileAndPlaceStep : Prop :=
  ∀ s : State, EngineTurn s → s.phase = .segDecode → s.stage = .mergePlace →
    step s = .next { popHost s with
      tile := mergeTile s.cfg s.bpix
      frame := placeTile s.cfg s.mb (mergeTile s.cfg s.bpix) s.frame
      mb := if s.mb + 1 < s.cfg.mbCount then s.mb + 1 else s.mb
      blk := if s.mb + 1 < s.cfg.mbCount then 0 else s.blk
      stage := if s.mb + 1 < s.cfg.mbCount then .dcItem else .emitFrame }

/-- At the frame stage the step puts FRAME[0 .. FRAME_W FRAME_H - 1] on the output port as an image of FRAME_W by
FRAME_H with 16 bits a pixel, under index OUT_COUNT; OUT_COUNT is one higher (saturating), HOLD = 1, and SEG_PROBE
follows after the Accept; nothing else changes. -/
def Obligations.FrameEmitStep : Prop :=
  ∀ s : State, EngineTurn s → s.phase = .segDecode → s.stage = .emitFrame →
    step s = .next { popHost s with
      pending := some (.image s.outCount (s.frame.take (s.cfg.frameW * s.cfg.frameH)) s.cfg.frameW s.cfg.frameH 16)
      outCount := satInc s.outCount
      status := { s.status with hold := true }
      stage := .toProbe }

/-- In SEG_PROBE, with P = CUR + 8 + 2 ceil(BITPOS / 16) and E = min(CUR + 65536, N): if P + 2 <= E and the 16-bit
value at P is in TEX_PREFIXES, the step is exec of TEX_PREFIX with that value; otherwise CUR moves by 65536 and PHASE
is SEG_HDR, and nothing else changes. -/
def Obligations.TextureProbeStep : Prop :=
  ∀ (s : State) (p e : Nat), EngineTurn s → s.phase = .segProbe →
    p = s.cur + 8 + 2 * ((s.cursor.bitpos + 15) / 16) → e = min (s.cur + 65536) s.inLen.toNat →
    (p + 2 ≤ e → half s.mem p ∈ s.cfg.texPrefixes → step s = exec (.texPrefix (half s.mem p)) (popHost s))
    ∧ (e < p + 2 ∨ half s.mem p ∉ s.cfg.texPrefixes →
        step s = .next { popHost s with cur := s.cur + 65536, phase := .segHdr, stage := .first })

/-- With the decided DEQUANT, rec[0] is LEVEL[0] QMATRIX[0] and rec[k] is LEVEL[k] QTAG QMATRIX[k] / 8 truncated
toward zero (the quotient of the magnitudes, the sign restored), each clamped to -2048..2047. With the decided level
shift, a luma sample is f + 128 clamped to 0..255 and a chroma sample is f clamped to -128..127. -/
def Obligations.DequantAndLevelShift : Prop :=
  ∀ (c : Config) (qtag : Half),
    (c.dequant = .spec →
      (∀ level : Int, dequantDc c level = max (-2048) (min 2047 (level * (c.qmatrix.getD 0 0 : Nat))))
      ∧ ∀ (k : Nat) (level : Int), 1 ≤ k → k < 64 →
          dequantAc c qtag k level =
            max (-2048) (min 2047
              (level.sign * ((level.natAbs * qtag.toNat * c.qmatrix.getD k 0 / 8 : Nat) : Int))))
    ∧ (c.levelShift = .spec → ∀ f : Int,
        levelShift c .y f = max 0 (min 255 (f + 128))
        ∧ levelShift c .cb f = max (-128) (min 127 f)
        ∧ levelShift c .cr f = max (-128) (min 127 f))

/-- For every ZIGZAG with 64 entries in 0..63 and 64 terms rec, F[ZIGZAG[k]] = rec[k] for every k that no later
position shares its raster index with, which in a legal configuration (the model counts permutations only, log entry
29) is every k; and the terms of a dequantised block are DequantDC of LEVEL[0] at 0 and DequantAC of LEVEL[k] with
QTAG at k, and lie in -2048..2047 whatever DEQUANT is. -/
def Obligations.ZigzagScatter : Prop :=
  ∀ (c : Config), c.zigzag.length = 64 → (∀ p ∈ c.zigzag, p < 64) →
    (∀ rec : List Int, rec.length = 64 → (deZigzag c rec).length = 64
      ∧ ∀ k, k < 64 → (c.legal = true ∨ ∀ j, k < j → j < 64 → c.zigzag.getD j 0 ≠ c.zigzag.getD k 0) →
        (deZigzag c rec).getD (c.zigzag.getD k 0) 0 = rec.getD k 0)
    ∧ ∀ (qtag : Half) (level : List Int), (dequantBlock c qtag level).length = 64
      ∧ (∀ v ∈ dequantBlock c qtag level, -2048 ≤ v ∧ v ≤ 2047)
      ∧ (dequantBlock c qtag level).getD 0 0 = dequantDc c (level.getD 0 0)
      ∧ ∀ k, 1 ≤ k → k < 64 → (dequantBlock c qtag level).getD k 0 = dequantAc c qtag k (level.getD k 0)

/-- With the decided IDCT_1D there is an intermediate t of 64 values with t[8v + x] = floor((sum over u of M[x][u]
F[8v + u] + 2048) / 4096) and f[8y + x] = floor((sum over u of M[y][u] t[8u + x] + 2048) / 4096), M the matrix of the
rule. -/
def Obligations.InverseDctPasses : Prop :=
  idctMatrix =
    [ [1448, 2009, 1892, 1703, 1448, 1138, 784, 400], [1448, 1703, 784, -400, -1448, -2009, -1892, -1138],
      [1448, 1138, -784, -2009, -1448, 400, 1892, 1703], [1448, 400, -1892, -1138, 1448, 1703, -784, -2009],
      [1448, -400, -1892, 1138, 1448, -1703, -784, 2009], [1448, -1138, -784, 2009, -1448, -400, 1892, -1703],
      [1448, -1703, 784, 400, -1448, 2009, -1892, 1138], [1448, -2009, 1892, -1703, 1448, -1138, 784, -400] ]
  ∧ ∀ (c : Config) (f : List Int), c.idct = .spec → ∃ t : List Int, t.length = 64 ∧ (idct2d c f).length = 64
      ∧ (∀ v x, v < 8 → x < 8 → t.getD (8 * v + x) 0 =
          (((List.range 8).map fun u => (idctMatrix.getD x []).getD u 0 * f.getD (8 * v + u) 0).sum + 2048) / 4096)
      ∧ (∀ y x, y < 8 → x < 8 → (idct2d c f).getD (8 * y + x) 0 =
          (((List.range 8).map fun u => (idctMatrix.getD y []).getD u 0 * t.getD (8 * u + x) 0).sum + 2048) / 4096)

/-- With the decided DEQUANT and IDCT_1D and the standard zig-zag, a block with LEVEL[1..63] = 0 gives 64 equal
samples f = (1448 ((1448 d0 + 2048) >> 12) + 2048) >> 12 before the level shift, d0 = rec[0], and 8 f is within 8 of
d0. Nothing is claimed for a free DEQUANT or IDCT_1D (log entry 28). -/
def Obligations.DcOnlyBlockIsFlat : Prop :=
  ∀ (c : Config) (qtag : Half) (dc : Int), c.dequant = .spec → c.idct = .spec → c.zigzag = zigzagTable →
    ∀ (d0 f : Int), d0 = dequantDc c dc → f = (1448 * ((1448 * d0 + 2048) / 4096) + 2048) / 4096 →
      idct2d c (deZigzag c (dequantBlock c qtag (dc :: List.replicate 63 0))) = List.replicate 64 f
      ∧ -8 ≤ 8 * f - d0 ∧ 8 * f - d0 ≤ 8

/-- For the four constants of COLOR_K, R, G and B are the sums of the rule with floor division by 4096, clamped to
0..255; the reference constants are (5743, 1410, 2925, 7258). With the decided packing, a colour with R, G, B in
0..255 packs to R >> 3 in bits 4:0, G >> 3 in bits 9:5, B >> 3 in bits 14:10, and bit 15 = 0. -/
def Obligations.ColourAndPack : Prop :=
  (∀ (k : ColorK) (y cb cr : Int), colourConvert k y cb cr =
    (max 0 (min 255 (y + (k.kr * cr) / 4096)),
     max 0 (min 255 (y + (-(k.kgb * cb) - k.kgr * cr) / 4096)),
     max 0 (min 255 (y + (k.kb * cb) / 4096))))
  ∧ colorKTable = { kr := 5743, kgb := 1410, kgr := 2925, kb := 7258 }
  ∧ ∀ (c : Config) (r g b : Nat), c.pack = .spec → r < 256 → g < 256 → b < 256 →
      ((packColour c r g b).extractLsb' 0 5).toNat = r / 8
      ∧ ((packColour c r g b).extractLsb' 5 5).toNat = g / 8
      ∧ ((packColour c r g b).extractLsb' 10 5).toNat = b / 8
      ∧ (packColour c r g b).getLsbD 15 = false

/-- TILE[16y + x] for y, x in 0..15 is the packed colour of the luma sample 8 (y mod 8) + (x mod 8) of Y0 (top left),
Y1 (top right), Y2 (bottom left) or Y3 (bottom right) and of the Cb and Cr samples 8 (y >> 1) + (x >> 1). -/
def Obligations.TileMerge : Prop :=
  ∀ (c : Config) (b : BlockPixels), (mergeTile c b).length = 256 ∧ ∀ x y, x < 16 → y < 16 →
    ∀ (luma : List Int) (rgb : Int × Int × Int),
      luma = (if y < 8 then if x < 8 then b.y0 else b.y1 else if x < 8 then b.y2 else b.y3) →
      rgb = colourConvert c.colorK (luma.getD (8 * (y % 8) + x % 8) 0) (b.cb.getD (8 * (y / 2) + x / 2) 0)
        (b.cr.getD (8 * (y / 2) + x / 2) 0) →
      (mergeTile c b).getD (16 * y + x) 0 = packColour c rgb.1 rgb.2.1 rgb.2.2

/-- For a legal frame size, a frame of FRAME_W FRAME_H pixels and macroblock m, the pixel (16 (m mod MBW) + x, 16 (m
div MBW) + y) takes TILE[16y + x] for x, y in 0..15, and every other pixel of the frame stays. -/
def Obligations.TilePlacement : Prop :=
  ∀ (c : Config) (m : Nat) (tile frame : List Half), 0 < c.frameW → c.frameW % 16 = 0 → c.frameH % 16 = 0 →
    m < c.mbCount → tile.length = 256 → frame.length = c.frameW * c.frameH →
    (placeTile c m tile frame).length = frame.length
    ∧ (∀ x y, x < 16 → y < 16 →
        (placeTile c m tile frame).getD
          ((16 * (m / (c.frameW / 16)) + y) * c.frameW + (16 * (m % (c.frameW / 16)) + x)) 0 = tile.getD (16 * y + x) 0)
    ∧ (∀ x y, x < c.frameW → y < c.frameH →
        ¬ (16 * (m % (c.frameW / 16)) ≤ x ∧ x < 16 * (m % (c.frameW / 16)) + 16
            ∧ 16 * (m / (c.frameW / 16)) ≤ y ∧ y < 16 * (m / (c.frameW / 16)) + 16) →
        (placeTile c m tile frame).getD (y * c.frameW + x) 0 = frame.getD (y * c.frameW + x) 0)

/-- For a legal frame size, each pixel position of the frame lies in the tile of exactly one macroblock 0..MB_COUNT -
1. -/
def Obligations.FrameCoverage : Prop :=
  ∀ (c : Config) (x y : Nat), c.frameW % 16 = 0 → c.frameH % 16 = 0 → x < c.frameW → y < c.frameH →
    ∃! m, m < c.mbCount ∧ inTile c m x y = true

/-- The map reorgIndex (the rule's pi, written out in Safety.lean) takes the 320 by 256 positions one to one onto
0..81919, and the reorganised pixel (x, y) is the verbatim pixel at that index, for every chunk. -/
def Obligations.ReorgPermutation : Prop :=
  (∀ x y, x < 320 → y < 256 → reorgIndex x y < 81920)
  ∧ (∀ j, j < 81920 → ∃! xy : Nat × Nat, xy.1 < 320 ∧ xy.2 < 256 ∧ reorgIndex xy.1 xy.2 = j)
  ∧ ∀ (m : Memory) (base x y : Nat), x < 320 → y < 256 →
      (rawImage m base true).getD (320 * y + x) 0 = (rawImage m base false).getD (reorgIndex x y) 0

/-- MemRead of 1, 2 and 4 bytes at any address: a 32-bit read is the 16-bit read at the address plus 2^16 times the
one two bytes on, and a 16-bit read is the byte plus 256 times the next byte. -/
def Obligations.LittleEndianReads : Prop :=
  ∀ (m : Memory) (a : Nat),
    m.memRead a 1 = (m.read a).toNat
    ∧ m.memRead a 2 = (m.read a).toNat + 256 * (m.read (a + 1)).toNat
    ∧ m.memRead a 4 = m.memRead a 2 + 65536 * m.memRead (a + 2) 2

/-- CursorInit(base, end) loads the first two words into SR with AVAIL = 16, WPTR = base + 4 and BITPOS = 0. Peek(n)
is SR[31 : 32 - n]. Consume(n) shifts SR left by n and moves AVAIL and BITPOS; when AVAIL falls to 0 or below, the
refill ORs in the next word shifted by -AVAIL, and WPTR and AVAIL move on by 2 and 16. SrcWord(i) is the byte at base
+ 2i and 256 times the byte after it, each 0 at or past the end. -/
def Obligations.CursorOperations : Prop :=
  (∀ (m : Memory) (base srcEnd : Nat), Cursor.init m base srcEnd =
    { sr := BitVec.ofNat 32 (srcWord m base srcEnd 0 * 65536 + srcWord m base srcEnd 1), avail := 16, wptr := base + 4,
      srcBase := base, srcEnd := srcEnd, bitpos := 0 })
  ∧ (∀ (m : Memory) (base srcEnd i : Nat), srcWord m base srcEnd i =
      (if base + 2 * i < srcEnd then (m.read (base + 2 * i)).toNat else 0)
      + 256 * (if base + 2 * i + 1 < srcEnd then (m.read (base + 2 * i + 1)).toNat else 0))
  ∧ ∀ (m : Memory) (c : Cursor) (n : Nat), 1 ≤ n → n ≤ 17 →
      c.peek n = c.sr.toNat / 2 ^ (32 - n)
      ∧ (n ≤ 16 → 0 < c.avail - n → c.advance m n = { c with
          sr := c.sr <<< n, avail := c.avail - n, bitpos := c.bitpos + n })
      ∧ (n ≤ 16 → c.avail - n ≤ 0 → c.advance m n = { c with
          sr := (c.sr <<< n)
            ||| (BitVec.ofNat 32 (srcWord m c.srcBase c.srcEnd ((c.wptr - c.srcBase) / 2)) <<< (n - c.avail).toNat)
          avail := c.avail - n + 16
          wptr := c.wptr + 2
          bitpos := c.bitpos + n })

/-- After CursorInit on any region, for every list of widths in 1..16, the values of the GetBits concatenated are the
stream bits 0 .. sum - 1 in order, padding zeros past the end included: the stream bit p comes from the byte of IN at
base + 2 floor(p / 16), plus 1 when p mod 16 < 8, and is bit 7 - p mod 8 of that byte when it lies before the end, 0
when it lies at or past the end. -/
def Obligations.GetBitsReadTheStream : Prop :=
  ∀ (m : Memory) (base srcEnd : Nat),
    (∀ widths : List Nat, (∀ n ∈ widths, 1 ≤ n ∧ n ≤ 16) →
      getBitsAll m (Cursor.init m base srcEnd) widths = (List.range widths.sum).map (streamBit m base srcEnd))
    ∧ ∀ p : Nat, byteOfBit base p = base + 2 * (p / 16) + (if p % 16 < 8 then 1 else 0)
      ∧ (byteOfBit base p < srcEnd → streamBit m base srcEnd p = (m.read (byteOfBit base p)).getLsbD (7 - p % 8))
      ∧ (srcEnd ≤ byteOfBit base p → streamBit m base srcEnd p = false)

/-- An aligned word read of each offset 0x00..0x3C returns CTRL (START reads 0), STATUS, IN_LEN, the five counters,
END_POS, END_INFO or 0 for a reserved offset, with the fields of CTRL and STATUS at their bits and the end reason's
code in bits 11:8; the state changes only in the value returned. -/
def Obligations.HostRegisterReads : Prop :=
  (EndReason.code .none = 0 ∧ EndReason.code .endOfInput = 1 ∧ EndReason.code .formatMismatch = 2
    ∧ EndReason.code .terminalChunk = 3 ∧ EndReason.code .vlcMismatch = 4 ∧ EndReason.code .ioError = 5
    ∧ EndReason.code .allocFailure = 6)
  ∧ ∀ (s : State) (off : Nat) (rest : List HostAction), s.host = .regRead off 4 :: rest → off % 4 = 0 → off ≤ 0x3C →
    ∃ v : Word, step s = .next { s with host := rest, readData := v }
      ∧ (off = 0x00 → ∀ j, v.getLsbD j =
          ((decide (j = 1) && s.ctrl.mode) || (decide (j = 2) && s.ctrl.reorg) || (decide (j = 3) && s.ctrl.srcErr)))
      ∧ (off = 0x04 → ∀ j, v.getLsbD j =
          ((decide (j = 0) && s.status.busy) || (decide (j = 1) && s.status.done) || (decide (j = 2) && s.status.success)
            || (decide (j = 3) && s.status.fatal) || (decide (j = 4) && s.status.hold)
            || (decide (8 ≤ j) && s.status.endReason.code.testBit (j - 8))))
      ∧ (off = 0x08 → v = s.inLen) ∧ (off = 0x0C → v = s.outCount) ∧ (off = 0x10 → v = s.segCount)
      ∧ (off = 0x14 → v = s.oorCount) ∧ (off = 0x18 → v = s.overrunCount) ∧ (off = 0x1C → v = s.segcapCount)
      ∧ (off = 0x20 → v = s.endPos) ∧ (off = 0x24 → v = s.endInfo) ∧ (0x28 ≤ off → v = 0)

/-- A write of each offset 0x04..0x3C: IN_LEN takes the value while BUSY = 0; a write to IN_LEN while busy, to a
read-only register or to a reserved offset is ignored. -/
def Obligations.HostRegisterWrites : Prop :=
  ∀ (s : State) (off : Nat) (v : Word) (rest : List HostAction), s.host = .regWrite off 4 v :: rest → off ≠ 0 →
    off % 4 = 0 → off ≤ 0x3C →
      step s = .next { s with
        host := rest, inLen := if off = 0x08 ∧ s.status.busy = false then v else s.inLen }

/-- A read or a write of another width, at an unaligned offset, or outside 0x00..0x3C gets no step: it is refused as
registerAccess. -/
def Obligations.NonWordAccessRefused : Prop :=
  ∀ (s : State) (off width : Nat) (v : Word) (rest : List HostAction),
    ¬ (width = 4 ∧ off % 4 = 0 ∧ off ≤ 0x3C) →
    (s.host = .regWrite off width v :: rest → step s = .refused .registerAccess)
    ∧ (s.host = .regRead off width :: rest → step s = .refused .registerAccess)

/-- With HOLD = 1, Accept moves PENDING to the accepted artifacts and clears HOLD; nothing else changes. While BUSY =
1 and HOLD = 0 the Accept stays pending and the engine has the turn; with BUSY = 0 and HOLD = 0 it is refused (the
order of turns is the model's, log entry 4). -/
def Obligations.AcceptHandsOver : Prop :=
  ∀ (s : State) (rest : List HostAction), s.host = .accept :: rest →
    (s.status.hold = true → step s = .next { s with
      host := rest, out := s.out ++ s.pending.toList, pending := none, status := { s.status with hold := false } })
    ∧ (s.status.hold = false → s.status.busy = true → EngineTurn s ∧ popHost s = s)
    ∧ (s.status.hold = false → s.status.busy = false → step s = .refused .acceptNotEnabled)

/-- With BUSY = 0 and an address below IN_MAX, InWrite changes IN alone: on a memory in canonical form, the address
reads as the byte written, every other address as before, and the form is kept. With BUSY = 1 it is refused; at or
past IN_MAX it faults (the model's choice, log entry 15). -/
def Obligations.InWriteStoresOneByte : Prop :=
  ∀ (s : State) (a : Nat) (b : Byte) (rest : List HostAction), s.host = .inWrite a b :: rest →
    (s.status.busy = true → step s = .refused .inputBusy)
    ∧ (s.status.busy = false → s.cfg.inMax ≤ a → step s = .fault .writeOutsideInput)
    ∧ (s.status.busy = false → a < s.cfg.inMax → ∃ m : Memory, step s = .next { s with host := rest, mem := m }
        ∧ (s.mem.wf = true → m.wf = true ∧ m.read a = b ∧ ∀ x, x ≠ a → m.read x = s.mem.read x))

/-- Reset, whatever the machine was doing, answers the reset state with the configuration and IN kept; the outside's
own fields (the pending host actions, the last value read, the accepted artifacts, the draw counter) are kept as well
(log entry 5). R371 leaves CUR, the header, the cursor, PRED, BLK, MB, K, LEVEL, QTAG, ENTRY_COUNT, BPIX, TILE and
FRAME unspecified: that they take the values of State.reset is the model's choice (log entry 2), as is its own field
stage (log entry 11). -/
def Obligations.ResetInputClearsTheRun : Prop :=
  ∀ (s : State) (rest : List HostAction), s.host = .reset :: rest →
    step s = .next { State.reset with
      cfg := s.cfg, mem := s.mem, host := rest, readData := s.readData, out := s.out, draws := s.draws }

/-- At reset CTRL reads 0x00000004 and STATUS, IN_LEN, the counters, END_POS and END_INFO read 0; PHASE is IDLE and
PENDING is empty. Elements the table leaves unspecified are not claimed about. -/
def Obligations.ResetValues : Prop :=
  State.reset.ctrl.word = 0x00000004 ∧ State.reset.status.word = 0 ∧ State.reset.inLen = 0
  ∧ State.reset.outCount = 0 ∧ State.reset.segCount = 0 ∧ State.reset.oorCount = 0 ∧ State.reset.overrunCount = 0
  ∧ State.reset.segcapCount = 0 ∧ State.reset.endPos = 0 ∧ State.reset.endInfo = 0
  ∧ State.reset.phase = .idle ∧ State.reset.pending = none

/-- When the host does nothing and HOLD = 1 or BUSY = 0, a step leaves the whole state as it is. -/
def Obligations.EngineRestsWhenNotEnabled : Prop :=
  ∀ s : State, s.host = [] → s.status.hold = true ∨ s.status.busy = false → step s = .next s

/-- For every state whose memory is in canonical form, if step answers a next state, its memory is in canonical form.
-/
def Obligations.MemoryStaysCanonical : Prop :=
  ∀ s t : State, s.mem.wf = true → step s = .next t → t.mem.wf = true

/-- StatusOk: PHASE is IDLE or ENDED exactly when BUSY = 0; DONE = 1 exactly in ENDED; END_REASON is not NONE exactly
when DONE = 1; FATAL is 1 exactly for the fatal reasons; SUCCESS = 1 only when done and not fatal; HOLD = 1 exactly
when an artifact is pending, and only while busy. If it holds of s and step answers next t, it holds of t. So no step
both emits and ends the run. -/
def Obligations.StatusStaysConsistent : Prop :=
  ∀ s t : State, StatusOk s → step s = .next t → StatusOk t

/-- While the cursor is live (after the segment's initialisation, in SEG_DECODE and SEG_PROBE), AVAIL is in 1..16,
WPTR follows BITPOS and AVAIL, the upper 16 + AVAIL bits of SR are the stream bits from BITPOS on, and the rest are 0.
For a state that meets this and StatusOk, the next state of a step meets it, whatever the code tables. -/
def Obligations.CursorStaysInStep : Prop :=
  ∀ s t : State, StatusOk s → (CursorLive s → CursorOk s.mem s.cursor) → step s = .next t →
    (CursorLive t → CursorOk t.mem t.cursor)

/-- BuffersOk: K at most 64, BLK at most 5, MB below MB_COUNT inside the macroblock loop, 64 levels, 64 samples for
each role in 0..255 (luma) or -128..127 (chroma), 256 tile colours, and a FRAME of FRAME_W FRAME_H pixels in the
segmented phases (SEG_HDR, SEG_DECODE, SEG_PROBE) and of 81920 in TILED. If it holds of s and step answers next t, it
holds of t, for every configuration, poisoned blocks and free parameter functions included. -/
def Obligations.BuffersStayInRange : Prop :=
  ∀ s t : State, BuffersOk s → step s = .next t → BuffersOk t

/-- At reset the memory is in canonical form, STATUS, PHASE and PENDING are consistent, no cursor is live, and the
indices and buffers (at values the model chose, log entry 2) are in range. -/
def Obligations.ResetMeetsTheInvariants : Prop :=
  State.reset.mem.wf = true ∧ StatusOk State.reset ∧ ¬ CursorLive State.reset ∧ BuffersOk State.reset

/-- If step answers next t, the configuration is unchanged, and IN is unchanged unless the turn is an InWrite of the
host while BUSY = 0. -/
def Obligations.OnlyInWriteChangesInput : Prop :=
  ∀ s t : State, step s = .next t → t.cfg = s.cfg
    ∧ ((∀ a b, turn s ≠ .host (.inWrite a b)) → t.mem = s.mem) ∧ (s.status.busy = true → t.mem = s.mem)

/-- While BUSY = 1, a step that is not the reset input leaves each of the five counters and CUR at least as high as
before, and CTRL and IN_LEN as they were. -/
def Obligations.RunProgressIsMonotone : Prop :=
  ∀ s t : State, s.status.busy = true → turn s ≠ .host .reset → step s = .next t →
    s.outCount.toNat ≤ t.outCount.toNat ∧ s.segCount.toNat ≤ t.segCount.toNat ∧ s.oorCount.toNat ≤ t.oorCount.toNat
    ∧ s.overrunCount.toNat ≤ t.overrunCount.toNat ∧ s.segcapCount.toNat ≤ t.segcapCount.toNat
    ∧ s.cur ≤ t.cur ∧ t.ctrl = s.ctrl ∧ t.inLen = s.inLen

end
end

