-- ==== Sys2Proof/Laws/Decode.lean ====
section
/-! SUPPORT. Bits and bytes of numbers, and the contexts of the instructions that the decoder answers. -/

namespace Sys2Proof

@[simp] theorem natBits_length (n v : Nat) : (natBits n v).length = n := by
  induction n with
  | zero => rfl
  | succ n ih => simp [natBits, ih]

/-- Bit j of natBits is bit n - 1 - j of the number. -/
theorem natBits_getElem : ∀ (n v j : Nat) (h : j < (natBits n v).length), (natBits n v)[j] = v.testBit (n - 1 - j)
  | 0, _, _, h => absurd h (by simp)
  | n + 1, v, 0, _ => by simp [natBits]
  | n + 1, v, j + 1, h => by
    simp only [natBits, List.getElem_cons_succ]
    rw [natBits_getElem n v j (by simpa [natBits] using h)]
    congr 1; omega

theorem bitsNat_append (a b : List Bool) : bitsNat (a ++ b) = bitsNat a * 2 ^ b.length + bitsNat b := by
  unfold bitsNat
  rw [List.foldl_append]
  generalize a.foldl (fun acc x => 2 * acc + x.toNat) 0 = s
  induction b generalizing s with
  | nil => simp
  | cons x b ih =>
    simp only [List.foldl_cons, List.length_cons]
    rw [ih (2 * s + x.toNat), ih (2 * 0 + x.toNat), pow_succ]
    ring

/-- The number of its own bits. -/
theorem bitsNat_natBits : ∀ (n v : Nat), bitsNat (natBits n v) = v % 2 ^ n
  | 0, v => by simp [natBits, bitsNat, Nat.mod_one]
  | n + 1, v => by
    rw [natBits, ← List.singleton_append, bitsNat_append, bitsNat_natBits n v, natBits_length]
    have h : bitsNat [v.testBit n] = (v.testBit n).toNat := by simp [bitsNat]
    rw [h, Nat.testBit_eq_decide_div_mod_eq, Nat.pow_succ, Nat.mod_mul]
    have : v / 2 ^ n % 2 < 2 := Nat.mod_lt _ (by norm_num)
    rcases Nat.lt_or_ge (v / 2 ^ n % 2) 1 with h0 | h1
    · have : v / 2 ^ n % 2 = 0 := by omega
      simp [this]
    · have : v / 2 ^ n % 2 = 1 := by omega
      simp [this]; omega

@[simp] theorem natBytes_length (n v : Nat) : (natBytes n v).length = n := by
  induction n generalizing v with
  | zero => rfl
  | succ n ih => simp [natBytes, ih]

/-- The number of its own bytes. -/
theorem leNat_natBytes : ∀ (n v : Nat), leNat (natBytes n v) = v % 256 ^ n
  | 0, v => by simp [natBytes, leNat, Nat.mod_one]
  | n + 1, v => by
    simp only [natBytes, leNat, leNat_natBytes n (v / 256), BitVec.toNat_ofNat]
    rw [show (2 : Nat) ^ 8 = 256 by norm_num, show (256 : Nat) ^ (n + 1) = 256 * 256 ^ n by ring, Nat.mod_mul]

/-- A field that begins after `a` and ends before `c`. -/
theorem bitField_append (a b c : List Bool) : bitField (a ++ b ++ c) a.length b.length = bitsNat b := by
  simp [bitField, List.append_assoc]

theorem byteField_append (a b c : List Byte) : byteField (a ++ b ++ c) a.length b.length = leNat b := by
  simp [byteField, List.append_assoc]

/-! Which instructions the code tables hold. -/

theorem acTable_context : ∀ e ∈ acTable, ∀ neg, (e.instr neg).context = .acItem := by decide

theorem findAc_mem : ∀ {l : List AcEntry} {b : List Bool} {i : Instr}, findAc l b = some i →
    ∃ e ∈ l, ∃ neg, i = e.instr neg
  | [], _, _, h => by simp [findAc] at h
  | e :: r, b, i, h => by
    unfold findAc at h
    split at h
    · exact ⟨e, by simp, _, (Option.some.inj h).symm⟩
    · obtain ⟨e', he, neg, hi⟩ := findAc_mem h
      exact ⟨e', by simp [he], neg, hi⟩

theorem findDc_mem : ∀ {l : List DcEntry} {b : List Bool} {i : Instr}, findDc l b = some i →
    ∃ e ∈ l, ∃ v, i = e.instr v
  | [], _, _, h => by simp [findDc] at h
  | e :: r, b, i, h => by
    unfold findDc at h
    split at h
    · exact ⟨e, by simp, _, (Option.some.inj h).symm⟩
    · obtain ⟨e', he, v, hi⟩ := findDc_mem h
      exact ⟨e', by simp [he], v, hi⟩

theorem dcLumaTable_context : ∀ e ∈ dcLumaTable, ∀ v, (e.instr v).context = .dcLuma := by
  simp [dcLumaTable, Instr.context]

theorem dcChromaTable_context : ∀ e ∈ dcChromaTable, ∀ v, (e.instr v).context = .dcChroma := by
  simp [dcChromaTable, Instr.context]

/-- The AC decoder answers AC items only. -/
theorem decodeAc_context {a : AcCode} {b : List Bool} {i : Instr} (h : decodeAc a b = .ok i) :
    i.context = .acItem := by
  cases a with
  | spec =>
    simp only [decodeAc] at h
    split at h
    · cases h; rfl
    · split at h
      · cases h; rfl
      · split at h
        · rename_i hf
          cases h
          obtain ⟨e, he, neg, rfl⟩ := findAc_mem hf
          exact acTable_context e he neg
        · cases h
  | table rows eob esc =>
    simp only [decodeAc] at h
    split at h
    · cases h
    · split at h
      · cases h
      · split at h <;> cases h

/-- The predictive DC decoder answers items of its channel kind only. -/
theorem decodeDcPred_context {a : DcCode} {luma : Bool} {b : List Bool} {i : Instr}
    (h : decodeDcPred a luma b = .ok i) : i.context = if luma then .dcLuma else .dcChroma := by
  cases a with
  | candidate =>
    simp only [decodeDcPred] at h
    split at h
    · rename_i hf
      cases h
      cases luma
      · obtain ⟨e, he, v, rfl⟩ := findDc_mem hf
        exact dcChromaTable_context e he v
      · obtain ⟨e, he, v, rfl⟩ := findDc_mem hf
        exact dcLumaTable_context e he v
    · cases h
  | table y c =>
    simp only [decodeDcPred] at h
    split at h <;> cases h
  | free =>
    simp only [decodeDcPred] at h
    split at h <;> cases h

/-- An item of a parameter table in the AC context is no DC item. -/
def TableItem.isDc : TableItem → Bool
  | .dc _ _ => true
  | _ => false

theorem findAcRow_isDc : ∀ {l : List AcRow} {b : List Bool} {t : TableItem}, findAcRow l b = some t → t.isDc = false
  | [], _, _, h => by simp [findAcRow] at h
  | e :: r, b, t, h => by
    unfold findAcRow at h
    split at h
    · cases h; rfl
    · exact findAcRow_isDc h

theorem decodeAc_other {a : AcCode} {b : List Bool} {t : TableItem} (h : decodeAc a b = .other t) :
    t.isDc = false := by
  cases a with
  | spec =>
    simp only [decodeAc] at h
    split at h
    · cases h
    · split at h
      · cases h
      · split at h <;> cases h
  | table rows eob esc =>
    simp only [decodeAc] at h
    split at h
    · cases h; rfl
    · split at h
      · cases h; rfl
      · split at h
        · rename_i hf; cases h; exact findAcRow_isDc hf
        · cases h

theorem findDcRow_isDc : ∀ {l : List DcRow} {b : List Bool} {t : TableItem}, findDcRow l b = some t → t.isDc = true
  | [], _, _, h => by simp [findDcRow] at h
  | e :: r, b, t, h => by
    unfold findDcRow at h
    split at h
    · cases h; rfl
    · exact findDcRow_isDc h

/-- What findFreeDc finds: a word of at least `n` bits that begins the stream, with no shorter one of `n` or more. -/
theorem findFreeDc_some {luma : Bool} {b : List Bool} : ∀ {fuel n : Nat} {t : TableItem},
    findFreeDc luma b fuel n = some t → ∃ delta len, t = .dc delta len ∧ n ≤ len ∧ len < n + fuel
      ∧ Config.freeDcWord luma (streamPrefix b len) = some delta
      ∧ ∀ m, n ≤ m → m < len → Config.freeDcWord luma (streamPrefix b m) = none
  | 0, _, _, h => by simp [findFreeDc] at h
  | fuel + 1, n, t, h => by
    unfold findFreeDc at h
    split at h
    · rename_i delta hd
      cases h
      exact ⟨delta, n, rfl, le_refl _, by omega, hd, fun m h1 h2 => absurd h1 (by omega)⟩
    · rename_i hn
      obtain ⟨delta, len, rfl, h1, h2, h3, h4⟩ := findFreeDc_some h
      refine ⟨delta, len, rfl, by omega, by omega, h3, fun m hm1 hm2 => ?_⟩
      rcases Nat.eq_or_lt_of_le hm1 with rfl | hlt
      · exact hn
      · exact h4 m hlt hm2

/-- findFreeDc finds a word within its reach, when no shorter one begins the stream. -/
theorem findFreeDc_eq {luma : Bool} {b : List Bool} {delta : Int} {len : Nat} : ∀ {fuel n : Nat}, n ≤ len →
    len < n + fuel → Config.freeDcWord luma (streamPrefix b len) = some delta →
    (∀ m, n ≤ m → m < len → Config.freeDcWord luma (streamPrefix b m) = none) →
    findFreeDc luma b fuel n = some (.dc delta len)
  | 0, _, h1, h2, _, _ => absurd h2 (by omega)
  | fuel + 1, n, h1, h2, h3, h4 => by
    unfold findFreeDc
    rcases Nat.eq_or_lt_of_le h1 with rfl | hlt
    · rw [h3]
    · rw [h4 n (le_refl _) hlt]
      exact findFreeDc_eq hlt (by omega) h3 fun m hm hm2 => h4 m (by omega) hm2

theorem decodeDcPred_other {a : DcCode} {luma : Bool} {b : List Bool} {t : TableItem}
    (h : decodeDcPred a luma b = .other t) : t.isDc = true := by
  cases a with
  | candidate => simp only [decodeDcPred] at h; split at h <;> cases h
  | table y c =>
    simp only [decodeDcPred] at h
    split at h
    · rename_i hf; cases h; exact findDcRow_isDc hf
    · cases h
  | free =>
    simp only [decodeDcPred] at h
    split at h
    · rename_i hf
      cases h
      obtain ⟨_, _, rfl, _⟩ := findFreeDc_some hf
      rfl
    · cases h

/-! The codes of other tables: a legal table reads each of its words. -/

theorem codesPrefixFree_pairwise {codes : List (List Bool)} (h : codesPrefixFree codes = true) :
    codes.Pairwise fun a b => ∀ l : List Bool, ¬ (a.isPrefixOf l = true ∧ b.isPrefixOf l = true) := by
  refine (of_decide_eq_true h : codes.Pairwise _).imp fun {a b} hab l hl => ?_
  simp only [List.isPrefixOf_iff_prefix] at hab hl
  exact (List.prefix_or_prefix_of_prefix hl.1 hl.2).elim hab.1 hab.2

theorem findAcRow_of_mem {b : List Bool} {row : AcRow} (hb : row.code.isPrefixOf b = true) :
    ∀ {rows : List AcRow}, codesPrefixFree (rows.map AcRow.code) = true → row ∈ rows →
    findAcRow rows b = some (.ac row.code.length row.run row.mag (b.getD row.code.length false))
  | [], _, hm => by simp at hm
  | e :: rows, hf, hm => by
    have hp := codesPrefixFree_pairwise hf
    rw [List.map_cons, List.pairwise_cons] at hp
    unfold findAcRow
    rcases List.mem_cons.1 hm with rfl | hm
    · rw [if_pos hb]
    · have he : ¬ e.code.isPrefixOf b = true := fun h => hp.1 _ (List.mem_map_of_mem hm) b ⟨h, hb⟩
      rw [if_neg he]
      refine findAcRow_of_mem hb ?_ hm
      rw [List.map_cons] at hf
      exact decide_eq_true (List.pairwise_cons.1 (of_decide_eq_true hf)).2

theorem findDcRow_of_mem {b : List Bool} {row : DcRow} (hb : row.code.isPrefixOf b = true) :
    ∀ {rows : List DcRow}, codesPrefixFree (rows.map DcRow.code) = true → row ∈ rows →
    findDcRow rows b = some (.dc row.delta row.code.length)
  | [], _, hm => by simp at hm
  | e :: rows, hf, hm => by
    have hp := codesPrefixFree_pairwise hf
    rw [List.map_cons, List.pairwise_cons] at hp
    unfold findDcRow
    rcases List.mem_cons.1 hm with rfl | hm
    · rw [if_pos hb]
    · have he : ¬ e.code.isPrefixOf b = true := fun h => hp.1 _ (List.mem_map_of_mem hm) b ⟨h, hb⟩
      rw [if_neg he]
      refine findDcRow_of_mem hb ?_ hm
      rw [List.map_cons] at hf
      exact decide_eq_true (List.pairwise_cons.1 (of_decide_eq_true hf)).2

theorem findAcRow_none {b : List Bool} : ∀ {rows : List AcRow}, (∀ row ∈ rows, row.code.isPrefixOf b = false) →
    findAcRow rows b = none
  | [], _ => rfl
  | e :: rows, h => by
    unfold findAcRow
    rw [if_neg (by simp [h e (by simp)])]
    exact findAcRow_none fun row hm => h row (by simp [hm])

theorem findDcRow_none {b : List Bool} : ∀ {rows : List DcRow}, (∀ row ∈ rows, row.code.isPrefixOf b = false) →
    findDcRow rows b = none
  | [], _ => rfl
  | e :: rows, h => by
    unfold findDcRow
    rw [if_neg (by simp [h e (by simp)])]
    exact findDcRow_none fun row hm => h row (by simp [hm])

theorem findFreeDc_none {luma : Bool} {b : List Bool} : ∀ {fuel n : Nat},
    (∀ m, n ≤ m → m < n + fuel → Config.freeDcWord luma (streamPrefix b m) = none) → findFreeDc luma b fuel n = none
  | 0, _, _ => rfl
  | fuel + 1, n, h => by
    unfold findFreeDc
    rw [h n (le_refl _) (by omega)]
    exact findFreeDc_none fun m h1 h2 => h m (by omega) (by omega)

/-- A table's row where its code stands (R192). -/
theorem decodeAc_row {rows : List AcRow} {eob esc b : List Bool} (h : (AcCode.table rows eob esc).legal = true)
    {row : AcRow} (hm : row ∈ rows) (hb : row.code.isPrefixOf b = true) :
    decodeAc (.table rows eob esc) b =
      .other (.ac row.code.length row.run row.mag (b.getD row.code.length false)) := by
  simp only [AcCode.legal, Bool.and_eq_true] at h
  have hp := codesPrefixFree_pairwise h.1.1.1
  rw [List.pairwise_cons, List.pairwise_cons] at hp
  have hr := List.mem_map_of_mem (f := AcRow.code) hm
  have h1 : ¬ eob.isPrefixOf b = true := fun h => hp.1 _ (List.mem_cons_of_mem _ hr) b ⟨h, hb⟩
  have h2 : ¬ esc.isPrefixOf b = true := fun h => hp.2.1 _ hr b ⟨h, hb⟩
  have hf : codesPrefixFree (rows.map AcRow.code) = true :=
    decide_eq_true (List.pairwise_cons.1 (List.pairwise_cons.1 (of_decide_eq_true h.1.1.1)).2).2
  simp only [decodeAc, h1, h2, if_false, Bool.false_eq_true, findAcRow_of_mem hb hf hm]

/-- A table's ESC_CODE where it stands (R193). -/
theorem decodeAc_escape {rows : List AcRow} {eob esc b : List Bool} (h : (AcCode.table rows eob esc).legal = true)
    (hb : esc.isPrefixOf b = true) :
    decodeAc (.table rows eob esc) b = .other (.esc esc.length (BitVec.ofNat 6 (bitField b esc.length 6))
      (BitVec.ofNat 11 (bitField b (esc.length + 6) 11))) := by
  simp only [AcCode.legal, Bool.and_eq_true] at h
  have hp := codesPrefixFree_pairwise h.1.1.1
  rw [List.pairwise_cons] at hp
  have h1 : ¬ eob.isPrefixOf b = true := fun h => hp.1 _ (by simp) b ⟨h, hb⟩
  simp only [decodeAc, h1, hb, if_true, if_false, Bool.false_eq_true]

end Sys2Proof
end

