-- ==== Sys2Proof/Laws/Cursor.lean ====
section
/-! SUPPORT. The bit cursor: what CursorInit and Consume leave, and the invariant of R147, which both keep. -/

namespace Sys2Proof.Machine

theorem srcByte_lt (m : Memory) (e a : Nat) : srcByte m e a < 256 := by
  unfold srcByte; split
  · exact (m.read a).isLt
  · omega

theorem srcWord_lt (m : Memory) (b e i : Nat) : srcWord m b e i < 65536 := by
  have h1 := srcByte_lt m e (b + 2 * i)
  have h2 := srcByte_lt m e (b + 2 * i + 1)
  unfold srcWord; omega

@[simp] theorem refill_bitpos (m : Memory) (c : Cursor) : (c.refill m).bitpos = c.bitpos := by
  unfold Cursor.refill; split <;> rfl
@[simp] theorem refill_srcBase (m : Memory) (c : Cursor) : (c.refill m).srcBase = c.srcBase := by
  unfold Cursor.refill; split <;> rfl
@[simp] theorem refill_srcEnd (m : Memory) (c : Cursor) : (c.refill m).srcEnd = c.srcEnd := by
  unfold Cursor.refill; split <;> rfl

@[simp] theorem advance_bitpos (m : Memory) (n : Nat) (c : Cursor) : (c.advance m n).bitpos = c.bitpos + n := by
  simp [Cursor.advance]
@[simp] theorem advance_srcBase (m : Memory) (n : Nat) (c : Cursor) : (c.advance m n).srcBase = c.srcBase := by
  simp [Cursor.advance]
@[simp] theorem advance_srcEnd (m : Memory) (n : Nat) (c : Cursor) : (c.advance m n).srcEnd = c.srcEnd := by
  simp [Cursor.advance]

/-- Stream bit 16 w + j is bit 15 - j of word w. -/
theorem streamBit_word (m : Memory) (b e w j : Nat) (h : j < 16) :
    streamBit m b e (16 * w + j) = (srcWord m b e w).testBit (15 - j) := by
  have h1 : (16 * w + j) / 16 = w := by omega
  have h2 : (16 * w + j) % 16 = j := by omega
  simp [streamBit, h1, h2]

/-- CursorInit meets the invariant (R140, R147). -/
theorem init_ok (m : Memory) (b e : Nat) : CursorOk m (Cursor.init m b e) where
  availLow := by simp [Cursor.init]
  availHigh := by simp [Cursor.init]
  aligned := by simp [Cursor.init]
  wptr := by simp [Cursor.init]
  streamBits := by
    intro i hi
    have hi : i < 32 := by simpa [Cursor.init] using hi
    have h0 := srcWord_lt m b e 0
    have h1 := srcWord_lt m b e 1
    simp only [Cursor.init, Nat.zero_add, BitVec.getLsbD_ofNat]
    rw [show (srcWord m b e 0 * 65536 + srcWord m b e 1) = 2 ^ 16 * srcWord m b e 0 + srcWord m b e 1 by omega,
      Nat.testBit_two_pow_mul_add _ (by omega)]
    by_cases hlt : i < 16
    · have := streamBit_word m b e 0 i hlt
      simp only [Nat.mul_zero, Nat.zero_add] at this
      rw [this]
      have : ¬ 31 - i < 16 := by omega
      simp only [this, if_false]
      rw [show 31 - i - 16 = 15 - i by omega]
      simp; omega
    · have := streamBit_word m b e 1 (i - 16) (by omega)
      rw [show 16 * 1 + (i - 16) = i by omega] at this
      rw [this]
      have h3 : 31 - i < 16 := by omega
      simp only [h3, if_true]
      rw [show 15 - (i - 16) = 31 - i by omega]
      simp; omega
  zeroBits := by intro i h h'; simp [Cursor.init] at h; omega

/-- Consume keeps the invariant (R142, R146, R147). -/
theorem advance_ok {m : Memory} {c : Cursor} (h : CursorOk m c) {n : Nat} (hn : n ≤ 16) :
    CursorOk m (c.advance m n) := by
  obtain ⟨hl, hh, ha, hw, hs, hz⟩ := h
  obtain ⟨a, hav⟩ : ∃ a : Nat, c.avail = a := ⟨c.avail.toNat, by omega⟩
  rw [hav] at hl hh
  have hat : c.avail.toNat = a := by omega
  rw [hat] at ha hw hs hz
  have hshift : ∀ i, i < 32 → (c.sr <<< n).getLsbD (31 - i) =
      if i + n < 16 + a then streamBit m c.srcBase c.srcEnd (c.bitpos + n + i) else false := by
    intro i hi
    rw [BitVec.getLsbD_shiftLeft]
    by_cases hin : i + n < 32
    · have h1 : ¬ 31 - i < n := by omega
      have h2 : 31 - i - n = 31 - (i + n) := by omega
      simp only [h1, h2, decide_false, Bool.not_false, Bool.and_true]
      have h3 : 31 - i < 32 := by omega
      simp only [h3, decide_true, Bool.true_and]
      split
      · rename_i hlt
        rw [hs _ hlt]; congr 1; omega
      · exact hz _ (by omega) hin
    · have h1 : 31 - i < n := by omega
      have h2 : ¬ i + n < 16 + a := by omega
      simp [h1, h2]
  unfold Cursor.advance Cursor.refill
  by_cases hneg : a ≤ n
  · have hcond : (c.avail - (n : Int)) ≤ 0 := by omega
    simp only [hcond, if_true]
    have hword : (c.wptr - c.srcBase) / 2 = (c.bitpos + 16 + a) / 16 := by omega
    obtain ⟨w, hwd⟩ : ∃ w, (c.bitpos + 16 + a) / 16 = w := ⟨_, rfl⟩
    have h16 : c.bitpos + 16 + a = 16 * w := by omega
    have hsh : (-(c.avail - (n : Int))).toNat = n - a := by omega
    have hnew : (c.avail - (n : Int) + 16).toNat = 16 + a - n := by omega
    refine ⟨by simp only; omega, by simp only; omega, ?_, ?_, ?_, ?_⟩
    · simp only [hnew]; omega
    · simp only [hnew]; omega
    · intro i hi
      simp only [hnew] at hi
      simp only [hword, hwd, hsh, BitVec.getLsbD_or]
      rw [hshift i (by omega), BitVec.getLsbD_shiftLeft, BitVec.getLsbD_ofNat]
      have hW := srcWord_lt m c.srcBase c.srcEnd w
      have h1 : ¬ 31 - i < n - a := by omega
      have h2 : 31 - i < 32 := by omega
      have h3 : 31 - i - (n - a) < 32 := by omega
      simp only [h1, h2, h3, decide_true, decide_false, Bool.not_false, Bool.and_true, Bool.true_and]
      by_cases hlt : i + n < 16 + a
      · simp only [hlt, if_true]
        rw [Nat.testBit_lt_two_pow (x := srcWord m c.srcBase c.srcEnd w)]
        · simp
        · exact lt_of_lt_of_le hW (by
            rw [show (65536 : Nat) = 2 ^ 16 by norm_num]
            exact Nat.pow_le_pow_right (by norm_num) (by omega))
      · simp only [hlt, if_false, Bool.false_or]
        have hst := streamBit_word m c.srcBase c.srcEnd w (i + n - (16 + a)) (by omega)
        rw [show c.bitpos + n + i = 16 * w + (i + n - (16 + a)) by omega, hst]
        congr 1; omega
    · intro i hi hi32
      simp only [hnew] at hi
      simp only [hword, hwd, hsh, BitVec.getLsbD_or]
      rw [hshift i hi32, BitVec.getLsbD_shiftLeft]
      have h1 : 31 - i < n - a := by omega
      have h2 : ¬ i + n < 16 + a := by omega
      simp [h1, h2]
  · have hcond : ¬ (c.avail - (n : Int)) ≤ 0 := by omega
    simp only [hcond, if_false]
    have hnew : (c.avail - (n : Int)).toNat = a - n := by omega
    refine ⟨by simp only; omega, by simp only; omega, ?_, ?_, ?_, ?_⟩
    · simp only [hnew]; omega
    · simp only [hnew]; omega
    · intro i hi
      simp only [hnew] at hi ⊢
      rw [hshift i (by omega), if_pos (by omega)]
    · intro i hi hi32
      simp only [hnew] at hi ⊢
      rw [hshift i hi32, if_neg (by omega)]

/-- Peek(n) is the next n stream bits (R147). -/
theorem peek_testBit {m : Memory} {c : Cursor} (h : CursorOk m c) {n j : Nat} (hn : n ≤ 17) (hj : j < n) :
    (c.peek n).testBit (n - 1 - j) = streamBit m c.srcBase c.srcEnd (c.bitpos + j) := by
  have h1 := h.availLow
  have hs := h.streamBits j (by omega)
  unfold Cursor.peek
  rw [BitVec.toNat_ushiftRight, Nat.testBit_shiftRight, BitVec.testBit_toNat, ← hs]
  congr 1; omega

/-- A cursor in its invariant sees the stream bits ahead of it (R147, R148). -/
theorem ahead_eq (m : Memory) : ∀ (n : Nat) (c : Cursor), CursorOk m c →
    c.ahead m n = (List.range (16 * n)).map fun j => streamBit m c.srcBase c.srcEnd (c.bitpos + j)
  | 0, _, _ => rfl
  | n + 1, c, h => by
    rw [Cursor.ahead, ahead_eq m n _ (advance_ok h (le_refl _))]
    rw [show 16 * (n + 1) = 16 + 16 * n by ring, List.range_add, List.map_append]
    congr 1
    · apply List.ext_getElem
      · simp
      · intro j h1 h2
        simp at h1
        rw [natBits_getElem, peek_testBit h (by omega) h1]
        simp
    · simp [Function.comp_def, Nat.add_assoc]

/-- The decoder gets the stream bits from BITPOS on (R46). -/
theorem lookahead_eq {s : State} (h : CursorOk s.mem s.cursor) : lookahead s = nextBits s (16 * lookaheadBlocks s) :=
  ahead_eq _ _ _ h

/-- A window of an escape and more. -/
theorem lookaheadBlocks_ge (s : State) : 3 ≤ lookaheadBlocks s := by unfold lookaheadBlocks; omega

theorem le_longestCode {codes : List (List Bool)} {b : List Bool} (h : b ∈ codes) : b.length ≤ longestCode codes := by
  have key : ∀ (l : List (List Bool)) (n : Nat),
      n ≤ l.foldl (fun n b => max n b.length) n ∧ ∀ b ∈ l, b.length ≤ l.foldl (fun n b => max n b.length) n := by
    intro l
    induction l with
    | nil => intro n; simp
    | cons x l ih =>
      intro n
      obtain ⟨h1, h2⟩ := ih (max n x.length)
      simp only [List.foldl_cons, List.mem_cons]
      refine ⟨by omega, ?_⟩
      rintro b (rfl | hb)
      · omega
      · exact h2 b hb
  exact (key codes 0).2 b h

/-- The bits that the decoder gets begin with the stream bits from BITPOS on (R46). -/
theorem lookahead_append {s : State} (h : CursorOk s.mem s.cursor) {e : List Bool}
    (hb : StreamBegins s.mem s.cursor e) (hl : e.length ≤ 16 * lookaheadBlocks s) :
    ∃ rest, lookahead s = e ++ rest := by
  rw [lookahead_eq h]
  refine ⟨(nextBits s (16 * lookaheadBlocks s)).drop e.length, ?_⟩
  conv_lhs => rw [← List.take_append_drop e.length (nextBits s _)]
  congr 1
  unfold nextBits
  apply List.ext_getElem
  · simp; omega
  · intro j h1 h2
    simp only [List.getElem_take, List.getElem_map, List.getElem_range]
    rw [hb j h2, List.getD_eq_getElem _ _ h2]

end Sys2Proof.Machine
end

