-- ==== Sys2Proof/Laws/State.lean ====
section
/-! SUPPORT. What each named operation leaves in each field of State: one lemma per field per operation, so that no later
proof unfolds a record update. -/

namespace Sys2Proof.Machine

/-! `consume`. -/

@[simp] theorem consume_cfg (n : Nat) (s : State) : (consume n s).cfg = s.cfg := rfl
@[simp] theorem consume_ctrl (n : Nat) (s : State) : (consume n s).ctrl = s.ctrl := rfl
@[simp] theorem consume_status (n : Nat) (s : State) : (consume n s).status = s.status := rfl
@[simp] theorem consume_inLen (n : Nat) (s : State) : (consume n s).inLen = s.inLen := rfl
@[simp] theorem consume_outCount (n : Nat) (s : State) : (consume n s).outCount = s.outCount := rfl
@[simp] theorem consume_segCount (n : Nat) (s : State) : (consume n s).segCount = s.segCount := rfl
@[simp] theorem consume_oorCount (n : Nat) (s : State) : (consume n s).oorCount = s.oorCount := rfl
@[simp] theorem consume_overrunCount (n : Nat) (s : State) :
    (consume n s).overrunCount = if s.cursor.overruns n then satInc s.overrunCount else s.overrunCount := rfl
@[simp] theorem consume_segcapCount (n : Nat) (s : State) : (consume n s).segcapCount = s.segcapCount := rfl
@[simp] theorem consume_endPos (n : Nat) (s : State) : (consume n s).endPos = s.endPos := rfl
@[simp] theorem consume_endInfo (n : Nat) (s : State) : (consume n s).endInfo = s.endInfo := rfl
@[simp] theorem consume_phase (n : Nat) (s : State) : (consume n s).phase = s.phase := rfl
@[simp] theorem consume_stage (n : Nat) (s : State) : (consume n s).stage = s.stage := rfl
@[simp] theorem consume_cur (n : Nat) (s : State) : (consume n s).cur = s.cur := rfl
@[simp] theorem consume_hdr (n : Nat) (s : State) : (consume n s).hdr = s.hdr := rfl
@[simp] theorem consume_cursor (n : Nat) (s : State) : (consume n s).cursor = s.cursor.advance s.mem n := rfl
@[simp] theorem consume_pred (n : Nat) (s : State) : (consume n s).pred = s.pred := rfl
@[simp] theorem consume_blk (n : Nat) (s : State) : (consume n s).blk = s.blk := rfl
@[simp] theorem consume_mb (n : Nat) (s : State) : (consume n s).mb = s.mb := rfl
@[simp] theorem consume_k (n : Nat) (s : State) : (consume n s).k = s.k := rfl
@[simp] theorem consume_level (n : Nat) (s : State) : (consume n s).level = s.level := rfl
@[simp] theorem consume_qtag (n : Nat) (s : State) : (consume n s).qtag = s.qtag := rfl
@[simp] theorem consume_entryCount (n : Nat) (s : State) : (consume n s).entryCount = s.entryCount := rfl
@[simp] theorem consume_poisoned (n : Nat) (s : State) : (consume n s).poisoned = s.poisoned := rfl
@[simp] theorem consume_bpix (n : Nat) (s : State) : (consume n s).bpix = s.bpix := rfl
@[simp] theorem consume_tile (n : Nat) (s : State) : (consume n s).tile = s.tile := rfl
@[simp] theorem consume_frame (n : Nat) (s : State) : (consume n s).frame = s.frame := rfl
@[simp] theorem consume_pending (n : Nat) (s : State) : (consume n s).pending = s.pending := rfl
@[simp] theorem consume_mem (n : Nat) (s : State) : (consume n s).mem = s.mem := rfl
@[simp] theorem consume_host (n : Nat) (s : State) : (consume n s).host = s.host := rfl
@[simp] theorem consume_readData (n : Nat) (s : State) : (consume n s).readData = s.readData := rfl
@[simp] theorem consume_out (n : Nat) (s : State) : (consume n s).out = s.out := rfl
@[simp] theorem consume_draws (n : Nat) (s : State) : (consume n s).draws = s.draws := rfl

/-! `countEntry`. -/

@[simp] theorem countEntry_cfg (s : State) : (countEntry s).cfg = s.cfg := rfl
@[simp] theorem countEntry_ctrl (s : State) : (countEntry s).ctrl = s.ctrl := rfl
@[simp] theorem countEntry_status (s : State) : (countEntry s).status = s.status := rfl
@[simp] theorem countEntry_inLen (s : State) : (countEntry s).inLen = s.inLen := rfl
@[simp] theorem countEntry_outCount (s : State) : (countEntry s).outCount = s.outCount := rfl
@[simp] theorem countEntry_segCount (s : State) : (countEntry s).segCount = s.segCount := rfl
@[simp] theorem countEntry_oorCount (s : State) : (countEntry s).oorCount = s.oorCount := rfl
@[simp] theorem countEntry_overrunCount (s : State) : (countEntry s).overrunCount = s.overrunCount := rfl
@[simp] theorem countEntry_segcapCount (s : State) :
    (countEntry s).segcapCount = if pastCapacity s.cfg (s.entryCount + 1) then satInc s.segcapCount else s.segcapCount := rfl
@[simp] theorem countEntry_endPos (s : State) : (countEntry s).endPos = s.endPos := rfl
@[simp] theorem countEntry_endInfo (s : State) : (countEntry s).endInfo = s.endInfo := rfl
@[simp] theorem countEntry_phase (s : State) : (countEntry s).phase = s.phase := rfl
@[simp] theorem countEntry_stage (s : State) : (countEntry s).stage = s.stage := rfl
@[simp] theorem countEntry_cur (s : State) : (countEntry s).cur = s.cur := rfl
@[simp] theorem countEntry_hdr (s : State) : (countEntry s).hdr = s.hdr := rfl
@[simp] theorem countEntry_cursor (s : State) : (countEntry s).cursor = s.cursor := rfl
@[simp] theorem countEntry_pred (s : State) : (countEntry s).pred = s.pred := rfl
@[simp] theorem countEntry_blk (s : State) : (countEntry s).blk = s.blk := rfl
@[simp] theorem countEntry_mb (s : State) : (countEntry s).mb = s.mb := rfl
@[simp] theorem countEntry_k (s : State) : (countEntry s).k = s.k := rfl
@[simp] theorem countEntry_level (s : State) : (countEntry s).level = s.level := rfl
@[simp] theorem countEntry_qtag (s : State) : (countEntry s).qtag = s.qtag := rfl
@[simp] theorem countEntry_entryCount (s : State) : (countEntry s).entryCount = s.entryCount + 1 := rfl
@[simp] theorem countEntry_poisoned (s : State) : (countEntry s).poisoned = s.poisoned := rfl
@[simp] theorem countEntry_bpix (s : State) : (countEntry s).bpix = s.bpix := rfl
@[simp] theorem countEntry_tile (s : State) : (countEntry s).tile = s.tile := rfl
@[simp] theorem countEntry_frame (s : State) : (countEntry s).frame = s.frame := rfl
@[simp] theorem countEntry_pending (s : State) : (countEntry s).pending = s.pending := rfl
@[simp] theorem countEntry_mem (s : State) : (countEntry s).mem = s.mem := rfl
@[simp] theorem countEntry_host (s : State) : (countEntry s).host = s.host := rfl
@[simp] theorem countEntry_readData (s : State) : (countEntry s).readData = s.readData := rfl
@[simp] theorem countEntry_out (s : State) : (countEntry s).out = s.out := rfl
@[simp] theorem countEntry_draws (s : State) : (countEntry s).draws = s.draws := rfl

/-! `blockStart`. -/

@[simp] theorem blockStart_cfg (s : State) : (blockStart s).cfg = s.cfg := rfl
@[simp] theorem blockStart_ctrl (s : State) : (blockStart s).ctrl = s.ctrl := rfl
@[simp] theorem blockStart_status (s : State) : (blockStart s).status = s.status := rfl
@[simp] theorem blockStart_inLen (s : State) : (blockStart s).inLen = s.inLen := rfl
@[simp] theorem blockStart_outCount (s : State) : (blockStart s).outCount = s.outCount := rfl
@[simp] theorem blockStart_segCount (s : State) : (blockStart s).segCount = s.segCount := rfl
@[simp] theorem blockStart_oorCount (s : State) : (blockStart s).oorCount = s.oorCount := rfl
@[simp] theorem blockStart_overrunCount (s : State) : (blockStart s).overrunCount = s.overrunCount := rfl
@[simp] theorem blockStart_segcapCount (s : State) : (blockStart s).segcapCount = s.segcapCount := rfl
@[simp] theorem blockStart_endPos (s : State) : (blockStart s).endPos = s.endPos := rfl
@[simp] theorem blockStart_endInfo (s : State) : (blockStart s).endInfo = s.endInfo := rfl
@[simp] theorem blockStart_phase (s : State) : (blockStart s).phase = s.phase := rfl
@[simp] theorem blockStart_stage (s : State) : (blockStart s).stage = s.stage := rfl
@[simp] theorem blockStart_cur (s : State) : (blockStart s).cur = s.cur := rfl
@[simp] theorem blockStart_hdr (s : State) : (blockStart s).hdr = s.hdr := rfl
@[simp] theorem blockStart_cursor (s : State) : (blockStart s).cursor = s.cursor := rfl
@[simp] theorem blockStart_pred (s : State) :
    (blockStart s).pred = if s.cfg.dcResetPerMb && decide (s.blk = 0) then Pred.zero else s.pred := rfl
@[simp] theorem blockStart_blk (s : State) : (blockStart s).blk = s.blk := rfl
@[simp] theorem blockStart_mb (s : State) : (blockStart s).mb = s.mb := rfl
@[simp] theorem blockStart_k (s : State) : (blockStart s).k = 0 := rfl
@[simp] theorem blockStart_level (s : State) : (blockStart s).level = List.replicate 64 0 := rfl
@[simp] theorem blockStart_qtag (s : State) : (blockStart s).qtag = s.qtag := rfl
@[simp] theorem blockStart_entryCount (s : State) : (blockStart s).entryCount = s.entryCount := rfl
@[simp] theorem blockStart_poisoned (s : State) : (blockStart s).poisoned = false := rfl
@[simp] theorem blockStart_bpix (s : State) : (blockStart s).bpix = s.bpix := rfl
@[simp] theorem blockStart_tile (s : State) : (blockStart s).tile = s.tile := rfl
@[simp] theorem blockStart_frame (s : State) : (blockStart s).frame = s.frame := rfl
@[simp] theorem blockStart_pending (s : State) : (blockStart s).pending = s.pending := rfl
@[simp] theorem blockStart_mem (s : State) : (blockStart s).mem = s.mem := rfl
@[simp] theorem blockStart_host (s : State) : (blockStart s).host = s.host := rfl
@[simp] theorem blockStart_readData (s : State) : (blockStart s).readData = s.readData := rfl
@[simp] theorem blockStart_out (s : State) : (blockStart s).out = s.out := rfl
@[simp] theorem blockStart_draws (s : State) : (blockStart s).draws = s.draws := rfl

/-! `dcStore`. -/

@[simp] theorem dcStore_cfg (v : Int) (s : State) : (dcStore v s).cfg = s.cfg := rfl
@[simp] theorem dcStore_ctrl (v : Int) (s : State) : (dcStore v s).ctrl = s.ctrl := rfl
@[simp] theorem dcStore_status (v : Int) (s : State) : (dcStore v s).status = s.status := rfl
@[simp] theorem dcStore_inLen (v : Int) (s : State) : (dcStore v s).inLen = s.inLen := rfl
@[simp] theorem dcStore_outCount (v : Int) (s : State) : (dcStore v s).outCount = s.outCount := rfl
@[simp] theorem dcStore_segCount (v : Int) (s : State) : (dcStore v s).segCount = s.segCount := rfl
@[simp] theorem dcStore_oorCount (v : Int) (s : State) : (dcStore v s).oorCount = s.oorCount := rfl
@[simp] theorem dcStore_overrunCount (v : Int) (s : State) : (dcStore v s).overrunCount = s.overrunCount := rfl
@[simp] theorem dcStore_segcapCount (v : Int) (s : State) :
    (dcStore v s).segcapCount = if pastCapacity s.cfg (s.entryCount + 1) then satInc s.segcapCount else s.segcapCount := rfl
@[simp] theorem dcStore_endPos (v : Int) (s : State) : (dcStore v s).endPos = s.endPos := rfl
@[simp] theorem dcStore_endInfo (v : Int) (s : State) : (dcStore v s).endInfo = s.endInfo := rfl
@[simp] theorem dcStore_phase (v : Int) (s : State) : (dcStore v s).phase = s.phase := rfl
@[simp] theorem dcStore_stage (v : Int) (s : State) : (dcStore v s).stage = .acItem := rfl
@[simp] theorem dcStore_cur (v : Int) (s : State) : (dcStore v s).cur = s.cur := rfl
@[simp] theorem dcStore_hdr (v : Int) (s : State) : (dcStore v s).hdr = s.hdr := rfl
@[simp] theorem dcStore_cursor (v : Int) (s : State) : (dcStore v s).cursor = s.cursor := rfl
@[simp] theorem dcStore_pred (v : Int) (s : State) : (dcStore v s).pred = s.pred := rfl
@[simp] theorem dcStore_blk (v : Int) (s : State) : (dcStore v s).blk = s.blk := rfl
@[simp] theorem dcStore_mb (v : Int) (s : State) : (dcStore v s).mb = s.mb := rfl
@[simp] theorem dcStore_k (v : Int) (s : State) : (dcStore v s).k = s.k := rfl
@[simp] theorem dcStore_level (v : Int) (s : State) : (dcStore v s).level = s.level.set 0 v := rfl
@[simp] theorem dcStore_qtag (v : Int) (s : State) : (dcStore v s).qtag = s.hdr.quant := rfl
@[simp] theorem dcStore_entryCount (v : Int) (s : State) : (dcStore v s).entryCount = s.entryCount + 1 := rfl
@[simp] theorem dcStore_poisoned (v : Int) (s : State) : (dcStore v s).poisoned = s.poisoned := rfl
@[simp] theorem dcStore_bpix (v : Int) (s : State) : (dcStore v s).bpix = s.bpix := rfl
@[simp] theorem dcStore_tile (v : Int) (s : State) : (dcStore v s).tile = s.tile := rfl
@[simp] theorem dcStore_frame (v : Int) (s : State) : (dcStore v s).frame = s.frame := rfl
@[simp] theorem dcStore_pending (v : Int) (s : State) : (dcStore v s).pending = s.pending := rfl
@[simp] theorem dcStore_mem (v : Int) (s : State) : (dcStore v s).mem = s.mem := rfl
@[simp] theorem dcStore_host (v : Int) (s : State) : (dcStore v s).host = s.host := rfl
@[simp] theorem dcStore_readData (v : Int) (s : State) : (dcStore v s).readData = s.readData := rfl
@[simp] theorem dcStore_out (v : Int) (s : State) : (dcStore v s).out = s.out := rfl
@[simp] theorem dcStore_draws (v : Int) (s : State) : (dcStore v s).draws = s.draws := rfl

/-! `advanceStore`. -/

@[simp] theorem advanceStore_cfg (run : Nat) (v : Int) (s : State) : (advanceStore run v s).cfg = s.cfg := rfl
@[simp] theorem advanceStore_ctrl (run : Nat) (v : Int) (s : State) : (advanceStore run v s).ctrl = s.ctrl := rfl
@[simp] theorem advanceStore_status (run : Nat) (v : Int) (s : State) :
    (advanceStore run v s).status = s.status := rfl
@[simp] theorem advanceStore_inLen (run : Nat) (v : Int) (s : State) : (advanceStore run v s).inLen = s.inLen := rfl
@[simp] theorem advanceStore_outCount (run : Nat) (v : Int) (s : State) :
    (advanceStore run v s).outCount = s.outCount := rfl
@[simp] theorem advanceStore_segCount (run : Nat) (v : Int) (s : State) :
    (advanceStore run v s).segCount = s.segCount := rfl
@[simp] theorem advanceStore_oorCount (run : Nat) (v : Int) (s : State) :
    (advanceStore run v s).oorCount = if nextK s.k run = 64 then satInc s.oorCount else s.oorCount := rfl
@[simp] theorem advanceStore_overrunCount (run : Nat) (v : Int) (s : State) :
    (advanceStore run v s).overrunCount = s.overrunCount := rfl
@[simp] theorem advanceStore_segcapCount (run : Nat) (v : Int) (s : State) :
    (advanceStore run v s).segcapCount = if pastCapacity s.cfg (s.entryCount + 1) then satInc s.segcapCount else s.segcapCount := rfl
@[simp] theorem advanceStore_endPos (run : Nat) (v : Int) (s : State) :
    (advanceStore run v s).endPos = s.endPos := rfl
@[simp] theorem advanceStore_endInfo (run : Nat) (v : Int) (s : State) :
    (advanceStore run v s).endInfo = s.endInfo := rfl
@[simp] theorem advanceStore_phase (run : Nat) (v : Int) (s : State) : (advanceStore run v s).phase = s.phase := rfl
@[simp] theorem advanceStore_stage (run : Nat) (v : Int) (s : State) : (advanceStore run v s).stage = s.stage := rfl
@[simp] theorem advanceStore_cur (run : Nat) (v : Int) (s : State) : (advanceStore run v s).cur = s.cur := rfl
@[simp] theorem advanceStore_hdr (run : Nat) (v : Int) (s : State) : (advanceStore run v s).hdr = s.hdr := rfl
@[simp] theorem advanceStore_cursor (run : Nat) (v : Int) (s : State) :
    (advanceStore run v s).cursor = s.cursor := rfl
@[simp] theorem advanceStore_pred (run : Nat) (v : Int) (s : State) : (advanceStore run v s).pred = s.pred := rfl
@[simp] theorem advanceStore_blk (run : Nat) (v : Int) (s : State) : (advanceStore run v s).blk = s.blk := rfl
@[simp] theorem advanceStore_mb (run : Nat) (v : Int) (s : State) : (advanceStore run v s).mb = s.mb := rfl
@[simp] theorem advanceStore_k (run : Nat) (v : Int) (s : State) : (advanceStore run v s).k = nextK s.k run := rfl
@[simp] theorem advanceStore_level (run : Nat) (v : Int) (s : State) :
    (advanceStore run v s).level = if nextK s.k run = 64 then s.level else s.level.set (nextK s.k run) v := rfl
@[simp] theorem advanceStore_qtag (run : Nat) (v : Int) (s : State) : (advanceStore run v s).qtag = s.qtag := rfl
@[simp] theorem advanceStore_entryCount (run : Nat) (v : Int) (s : State) :
    (advanceStore run v s).entryCount = s.entryCount + 1 := rfl
@[simp] theorem advanceStore_poisoned (run : Nat) (v : Int) (s : State) :
    (advanceStore run v s).poisoned = (s.poisoned || (decide (nextK s.k run = 64) && decide (s.cfg.oorPolicy = .poison))) := rfl
@[simp] theorem advanceStore_bpix (run : Nat) (v : Int) (s : State) : (advanceStore run v s).bpix = s.bpix := rfl
@[simp] theorem advanceStore_tile (run : Nat) (v : Int) (s : State) : (advanceStore run v s).tile = s.tile := rfl
@[simp] theorem advanceStore_frame (run : Nat) (v : Int) (s : State) : (advanceStore run v s).frame = s.frame := rfl
@[simp] theorem advanceStore_pending (run : Nat) (v : Int) (s : State) :
    (advanceStore run v s).pending = s.pending := rfl
@[simp] theorem advanceStore_mem (run : Nat) (v : Int) (s : State) : (advanceStore run v s).mem = s.mem := rfl
@[simp] theorem advanceStore_host (run : Nat) (v : Int) (s : State) : (advanceStore run v s).host = s.host := rfl
@[simp] theorem advanceStore_readData (run : Nat) (v : Int) (s : State) :
    (advanceStore run v s).readData = s.readData := rfl
@[simp] theorem advanceStore_out (run : Nat) (v : Int) (s : State) : (advanceStore run v s).out = s.out := rfl
@[simp] theorem advanceStore_draws (run : Nat) (v : Int) (s : State) : (advanceStore run v s).draws = s.draws := rfl

/-! `emit`. -/

@[simp] theorem emit_cfg (x : Word → Artifact) (s : State) : (emit x s).cfg = s.cfg := rfl
@[simp] theorem emit_ctrl (x : Word → Artifact) (s : State) : (emit x s).ctrl = s.ctrl := rfl
@[simp] theorem emit_status (x : Word → Artifact) (s : State) :
    (emit x s).status = { s.status with hold := true } := rfl
@[simp] theorem emit_inLen (x : Word → Artifact) (s : State) : (emit x s).inLen = s.inLen := rfl
@[simp] theorem emit_outCount (x : Word → Artifact) (s : State) : (emit x s).outCount = satInc s.outCount := rfl
@[simp] theorem emit_segCount (x : Word → Artifact) (s : State) : (emit x s).segCount = s.segCount := rfl
@[simp] theorem emit_oorCount (x : Word → Artifact) (s : State) : (emit x s).oorCount = s.oorCount := rfl
@[simp] theorem emit_overrunCount (x : Word → Artifact) (s : State) : (emit x s).overrunCount = s.overrunCount := rfl
@[simp] theorem emit_segcapCount (x : Word → Artifact) (s : State) : (emit x s).segcapCount = s.segcapCount := rfl
@[simp] theorem emit_endPos (x : Word → Artifact) (s : State) : (emit x s).endPos = s.endPos := rfl
@[simp] theorem emit_endInfo (x : Word → Artifact) (s : State) : (emit x s).endInfo = s.endInfo := rfl
@[simp] theorem emit_phase (x : Word → Artifact) (s : State) : (emit x s).phase = s.phase := rfl
@[simp] theorem emit_stage (x : Word → Artifact) (s : State) : (emit x s).stage = s.stage := rfl
@[simp] theorem emit_cur (x : Word → Artifact) (s : State) : (emit x s).cur = s.cur := rfl
@[simp] theorem emit_hdr (x : Word → Artifact) (s : State) : (emit x s).hdr = s.hdr := rfl
@[simp] theorem emit_cursor (x : Word → Artifact) (s : State) : (emit x s).cursor = s.cursor := rfl
@[simp] theorem emit_pred (x : Word → Artifact) (s : State) : (emit x s).pred = s.pred := rfl
@[simp] theorem emit_blk (x : Word → Artifact) (s : State) : (emit x s).blk = s.blk := rfl
@[simp] theorem emit_mb (x : Word → Artifact) (s : State) : (emit x s).mb = s.mb := rfl
@[simp] theorem emit_k (x : Word → Artifact) (s : State) : (emit x s).k = s.k := rfl
@[simp] theorem emit_level (x : Word → Artifact) (s : State) : (emit x s).level = s.level := rfl
@[simp] theorem emit_qtag (x : Word → Artifact) (s : State) : (emit x s).qtag = s.qtag := rfl
@[simp] theorem emit_entryCount (x : Word → Artifact) (s : State) : (emit x s).entryCount = s.entryCount := rfl
@[simp] theorem emit_poisoned (x : Word → Artifact) (s : State) : (emit x s).poisoned = s.poisoned := rfl
@[simp] theorem emit_bpix (x : Word → Artifact) (s : State) : (emit x s).bpix = s.bpix := rfl
@[simp] theorem emit_tile (x : Word → Artifact) (s : State) : (emit x s).tile = s.tile := rfl
@[simp] theorem emit_frame (x : Word → Artifact) (s : State) : (emit x s).frame = s.frame := rfl
@[simp] theorem emit_pending (x : Word → Artifact) (s : State) : (emit x s).pending = some (x s.outCount) := rfl
@[simp] theorem emit_mem (x : Word → Artifact) (s : State) : (emit x s).mem = s.mem := rfl
@[simp] theorem emit_host (x : Word → Artifact) (s : State) : (emit x s).host = s.host := rfl
@[simp] theorem emit_readData (x : Word → Artifact) (s : State) : (emit x s).readData = s.readData := rfl
@[simp] theorem emit_out (x : Word → Artifact) (s : State) : (emit x s).out = s.out := rfl
@[simp] theorem emit_draws (x : Word → Artifact) (s : State) : (emit x s).draws = s.draws := rfl

/-! `runEnd`. -/

@[simp] theorem runEnd_cfg (r : EndReason) (s : State) : (runEnd r s).cfg = s.cfg := rfl
@[simp] theorem runEnd_ctrl (r : EndReason) (s : State) : (runEnd r s).ctrl = s.ctrl := rfl
@[simp] theorem runEnd_status (r : EndReason) (s : State) : (runEnd r s).status = endedStatus r s.outCount := rfl
@[simp] theorem runEnd_inLen (r : EndReason) (s : State) : (runEnd r s).inLen = s.inLen := rfl
@[simp] theorem runEnd_outCount (r : EndReason) (s : State) : (runEnd r s).outCount = s.outCount := rfl
@[simp] theorem runEnd_segCount (r : EndReason) (s : State) : (runEnd r s).segCount = s.segCount := rfl
@[simp] theorem runEnd_oorCount (r : EndReason) (s : State) : (runEnd r s).oorCount = s.oorCount := rfl
@[simp] theorem runEnd_overrunCount (r : EndReason) (s : State) : (runEnd r s).overrunCount = s.overrunCount := rfl
@[simp] theorem runEnd_segcapCount (r : EndReason) (s : State) : (runEnd r s).segcapCount = s.segcapCount := rfl
@[simp] theorem runEnd_endPos (r : EndReason) (s : State) :
    (runEnd r s).endPos = if r.isFatal then 0 else endPosition s := rfl
@[simp] theorem runEnd_endInfo (r : EndReason) (s : State) : (runEnd r s).endInfo = s.endInfo := rfl
@[simp] theorem runEnd_phase (r : EndReason) (s : State) : (runEnd r s).phase = .ended := rfl
@[simp] theorem runEnd_stage (r : EndReason) (s : State) : (runEnd r s).stage = .first := rfl
@[simp] theorem runEnd_cur (r : EndReason) (s : State) : (runEnd r s).cur = s.cur := rfl
@[simp] theorem runEnd_hdr (r : EndReason) (s : State) : (runEnd r s).hdr = s.hdr := rfl
@[simp] theorem runEnd_cursor (r : EndReason) (s : State) : (runEnd r s).cursor = s.cursor := rfl
@[simp] theorem runEnd_pred (r : EndReason) (s : State) : (runEnd r s).pred = s.pred := rfl
@[simp] theorem runEnd_blk (r : EndReason) (s : State) : (runEnd r s).blk = s.blk := rfl
@[simp] theorem runEnd_mb (r : EndReason) (s : State) : (runEnd r s).mb = s.mb := rfl
@[simp] theorem runEnd_k (r : EndReason) (s : State) : (runEnd r s).k = s.k := rfl
@[simp] theorem runEnd_level (r : EndReason) (s : State) : (runEnd r s).level = s.level := rfl
@[simp] theorem runEnd_qtag (r : EndReason) (s : State) : (runEnd r s).qtag = s.qtag := rfl
@[simp] theorem runEnd_entryCount (r : EndReason) (s : State) : (runEnd r s).entryCount = s.entryCount := rfl
@[simp] theorem runEnd_poisoned (r : EndReason) (s : State) : (runEnd r s).poisoned = s.poisoned := rfl
@[simp] theorem runEnd_bpix (r : EndReason) (s : State) : (runEnd r s).bpix = s.bpix := rfl
@[simp] theorem runEnd_tile (r : EndReason) (s : State) : (runEnd r s).tile = s.tile := rfl
@[simp] theorem runEnd_frame (r : EndReason) (s : State) : (runEnd r s).frame = s.frame := rfl
@[simp] theorem runEnd_pending (r : EndReason) (s : State) : (runEnd r s).pending = s.pending := rfl
@[simp] theorem runEnd_mem (r : EndReason) (s : State) : (runEnd r s).mem = s.mem := rfl
@[simp] theorem runEnd_host (r : EndReason) (s : State) : (runEnd r s).host = s.host := rfl
@[simp] theorem runEnd_readData (r : EndReason) (s : State) : (runEnd r s).readData = s.readData := rfl
@[simp] theorem runEnd_out (r : EndReason) (s : State) : (runEnd r s).out = s.out := rfl
@[simp] theorem runEnd_draws (r : EndReason) (s : State) : (runEnd r s).draws = s.draws := rfl

/-! `vlcMismatch`. -/

@[simp] theorem vlcMismatch_cfg (s : State) : (vlcMismatch s).cfg = s.cfg := rfl
@[simp] theorem vlcMismatch_ctrl (s : State) : (vlcMismatch s).ctrl = s.ctrl := rfl
@[simp] theorem vlcMismatch_status (s : State) : (vlcMismatch s).status = endedStatus .vlcMismatch s.outCount := rfl
@[simp] theorem vlcMismatch_inLen (s : State) : (vlcMismatch s).inLen = s.inLen := rfl
@[simp] theorem vlcMismatch_outCount (s : State) : (vlcMismatch s).outCount = s.outCount := rfl
@[simp] theorem vlcMismatch_segCount (s : State) : (vlcMismatch s).segCount = s.segCount := rfl
@[simp] theorem vlcMismatch_oorCount (s : State) : (vlcMismatch s).oorCount = s.oorCount := rfl
@[simp] theorem vlcMismatch_overrunCount (s : State) : (vlcMismatch s).overrunCount = s.overrunCount := rfl
@[simp] theorem vlcMismatch_segcapCount (s : State) : (vlcMismatch s).segcapCount = s.segcapCount := rfl
@[simp] theorem vlcMismatch_endPos (s : State) : (vlcMismatch s).endPos = endPosition s := rfl
@[simp] theorem vlcMismatch_endInfo (s : State) : (vlcMismatch s).endInfo = mismatchInfo s.blk s.mb := rfl
@[simp] theorem vlcMismatch_phase (s : State) : (vlcMismatch s).phase = .ended := rfl
@[simp] theorem vlcMismatch_stage (s : State) : (vlcMismatch s).stage = .first := rfl
@[simp] theorem vlcMismatch_cur (s : State) : (vlcMismatch s).cur = s.cur := rfl
@[simp] theorem vlcMismatch_hdr (s : State) : (vlcMismatch s).hdr = s.hdr := rfl
@[simp] theorem vlcMismatch_cursor (s : State) : (vlcMismatch s).cursor = s.cursor := rfl
@[simp] theorem vlcMismatch_pred (s : State) : (vlcMismatch s).pred = s.pred := rfl
@[simp] theorem vlcMismatch_blk (s : State) : (vlcMismatch s).blk = s.blk := rfl
@[simp] theorem vlcMismatch_mb (s : State) : (vlcMismatch s).mb = s.mb := rfl
@[simp] theorem vlcMismatch_k (s : State) : (vlcMismatch s).k = s.k := rfl
@[simp] theorem vlcMismatch_level (s : State) : (vlcMismatch s).level = s.level := rfl
@[simp] theorem vlcMismatch_qtag (s : State) : (vlcMismatch s).qtag = s.qtag := rfl
@[simp] theorem vlcMismatch_entryCount (s : State) : (vlcMismatch s).entryCount = s.entryCount := rfl
@[simp] theorem vlcMismatch_poisoned (s : State) : (vlcMismatch s).poisoned = s.poisoned := rfl
@[simp] theorem vlcMismatch_bpix (s : State) : (vlcMismatch s).bpix = s.bpix := rfl
@[simp] theorem vlcMismatch_tile (s : State) : (vlcMismatch s).tile = s.tile := rfl
@[simp] theorem vlcMismatch_frame (s : State) : (vlcMismatch s).frame = s.frame := rfl
@[simp] theorem vlcMismatch_pending (s : State) : (vlcMismatch s).pending = s.pending := rfl
@[simp] theorem vlcMismatch_mem (s : State) : (vlcMismatch s).mem = s.mem := rfl
@[simp] theorem vlcMismatch_host (s : State) : (vlcMismatch s).host = s.host := rfl
@[simp] theorem vlcMismatch_readData (s : State) : (vlcMismatch s).readData = s.readData := rfl
@[simp] theorem vlcMismatch_out (s : State) : (vlcMismatch s).out = s.out := rfl
@[simp] theorem vlcMismatch_draws (s : State) : (vlcMismatch s).draws = s.draws := rfl

/-! `countSegment`. -/

@[simp] theorem countSegment_cfg (s : State) : (countSegment s).cfg = s.cfg := rfl
@[simp] theorem countSegment_ctrl (s : State) : (countSegment s).ctrl = s.ctrl := rfl
@[simp] theorem countSegment_status (s : State) : (countSegment s).status = s.status := rfl
@[simp] theorem countSegment_inLen (s : State) : (countSegment s).inLen = s.inLen := rfl
@[simp] theorem countSegment_outCount (s : State) : (countSegment s).outCount = s.outCount := rfl
@[simp] theorem countSegment_segCount (s : State) : (countSegment s).segCount = satInc s.segCount := rfl
@[simp] theorem countSegment_oorCount (s : State) : (countSegment s).oorCount = s.oorCount := rfl
@[simp] theorem countSegment_overrunCount (s : State) : (countSegment s).overrunCount = s.overrunCount := rfl
@[simp] theorem countSegment_segcapCount (s : State) : (countSegment s).segcapCount = s.segcapCount := rfl
@[simp] theorem countSegment_endPos (s : State) : (countSegment s).endPos = s.endPos := rfl
@[simp] theorem countSegment_endInfo (s : State) : (countSegment s).endInfo = s.endInfo := rfl
@[simp] theorem countSegment_phase (s : State) : (countSegment s).phase = s.phase := rfl
@[simp] theorem countSegment_stage (s : State) : (countSegment s).stage = s.stage := rfl
@[simp] theorem countSegment_cur (s : State) : (countSegment s).cur = s.cur := rfl
@[simp] theorem countSegment_hdr (s : State) : (countSegment s).hdr = s.hdr := rfl
@[simp] theorem countSegment_cursor (s : State) : (countSegment s).cursor = s.cursor := rfl
@[simp] theorem countSegment_pred (s : State) : (countSegment s).pred = s.pred := rfl
@[simp] theorem countSegment_blk (s : State) : (countSegment s).blk = s.blk := rfl
@[simp] theorem countSegment_mb (s : State) : (countSegment s).mb = s.mb := rfl
@[simp] theorem countSegment_k (s : State) : (countSegment s).k = s.k := rfl
@[simp] theorem countSegment_level (s : State) : (countSegment s).level = s.level := rfl
@[simp] theorem countSegment_qtag (s : State) : (countSegment s).qtag = s.qtag := rfl
@[simp] theorem countSegment_entryCount (s : State) : (countSegment s).entryCount = s.entryCount := rfl
@[simp] theorem countSegment_poisoned (s : State) : (countSegment s).poisoned = s.poisoned := rfl
@[simp] theorem countSegment_bpix (s : State) : (countSegment s).bpix = s.bpix := rfl
@[simp] theorem countSegment_tile (s : State) : (countSegment s).tile = s.tile := rfl
@[simp] theorem countSegment_frame (s : State) : (countSegment s).frame = s.frame := rfl
@[simp] theorem countSegment_pending (s : State) : (countSegment s).pending = s.pending := rfl
@[simp] theorem countSegment_mem (s : State) : (countSegment s).mem = s.mem := rfl
@[simp] theorem countSegment_host (s : State) : (countSegment s).host = s.host := rfl
@[simp] theorem countSegment_readData (s : State) : (countSegment s).readData = s.readData := rfl
@[simp] theorem countSegment_out (s : State) : (countSegment s).out = s.out := rfl
@[simp] theorem countSegment_draws (s : State) : (countSegment s).draws = s.draws := rfl

/-! `nextSegment`. -/

@[simp] theorem nextSegment_cfg (s : State) : (nextSegment s).cfg = s.cfg := rfl
@[simp] theorem nextSegment_ctrl (s : State) : (nextSegment s).ctrl = s.ctrl := rfl
@[simp] theorem nextSegment_status (s : State) : (nextSegment s).status = s.status := rfl
@[simp] theorem nextSegment_inLen (s : State) : (nextSegment s).inLen = s.inLen := rfl
@[simp] theorem nextSegment_outCount (s : State) : (nextSegment s).outCount = s.outCount := rfl
@[simp] theorem nextSegment_segCount (s : State) : (nextSegment s).segCount = s.segCount := rfl
@[simp] theorem nextSegment_oorCount (s : State) : (nextSegment s).oorCount = s.oorCount := rfl
@[simp] theorem nextSegment_overrunCount (s : State) : (nextSegment s).overrunCount = s.overrunCount := rfl
@[simp] theorem nextSegment_segcapCount (s : State) : (nextSegment s).segcapCount = s.segcapCount := rfl
@[simp] theorem nextSegment_endPos (s : State) : (nextSegment s).endPos = s.endPos := rfl
@[simp] theorem nextSegment_endInfo (s : State) : (nextSegment s).endInfo = s.endInfo := rfl
@[simp] theorem nextSegment_phase (s : State) : (nextSegment s).phase = .segHdr := rfl
@[simp] theorem nextSegment_stage (s : State) : (nextSegment s).stage = .first := rfl
@[simp] theorem nextSegment_cur (s : State) : (nextSegment s).cur = s.cur + 65536 := rfl
@[simp] theorem nextSegment_hdr (s : State) : (nextSegment s).hdr = s.hdr := rfl
@[simp] theorem nextSegment_cursor (s : State) : (nextSegment s).cursor = s.cursor := rfl
@[simp] theorem nextSegment_pred (s : State) : (nextSegment s).pred = s.pred := rfl
@[simp] theorem nextSegment_blk (s : State) : (nextSegment s).blk = s.blk := rfl
@[simp] theorem nextSegment_mb (s : State) : (nextSegment s).mb = s.mb := rfl
@[simp] theorem nextSegment_k (s : State) : (nextSegment s).k = s.k := rfl
@[simp] theorem nextSegment_level (s : State) : (nextSegment s).level = s.level := rfl
@[simp] theorem nextSegment_qtag (s : State) : (nextSegment s).qtag = s.qtag := rfl
@[simp] theorem nextSegment_entryCount (s : State) : (nextSegment s).entryCount = s.entryCount := rfl
@[simp] theorem nextSegment_poisoned (s : State) : (nextSegment s).poisoned = s.poisoned := rfl
@[simp] theorem nextSegment_bpix (s : State) : (nextSegment s).bpix = s.bpix := rfl
@[simp] theorem nextSegment_tile (s : State) : (nextSegment s).tile = s.tile := rfl
@[simp] theorem nextSegment_frame (s : State) : (nextSegment s).frame = s.frame := rfl
@[simp] theorem nextSegment_pending (s : State) : (nextSegment s).pending = s.pending := rfl
@[simp] theorem nextSegment_mem (s : State) : (nextSegment s).mem = s.mem := rfl
@[simp] theorem nextSegment_host (s : State) : (nextSegment s).host = s.host := rfl
@[simp] theorem nextSegment_readData (s : State) : (nextSegment s).readData = s.readData := rfl
@[simp] theorem nextSegment_out (s : State) : (nextSegment s).out = s.out := rfl
@[simp] theorem nextSegment_draws (s : State) : (nextSegment s).draws = s.draws := rfl

/-! `reconstructBlock`. -/

@[simp] theorem reconstructBlock_cfg (s : State) : (reconstructBlock s).cfg = s.cfg := rfl
@[simp] theorem reconstructBlock_ctrl (s : State) : (reconstructBlock s).ctrl = s.ctrl := rfl
@[simp] theorem reconstructBlock_status (s : State) : (reconstructBlock s).status = s.status := rfl
@[simp] theorem reconstructBlock_inLen (s : State) : (reconstructBlock s).inLen = s.inLen := rfl
@[simp] theorem reconstructBlock_outCount (s : State) : (reconstructBlock s).outCount = s.outCount := rfl
@[simp] theorem reconstructBlock_segCount (s : State) : (reconstructBlock s).segCount = s.segCount := rfl
@[simp] theorem reconstructBlock_oorCount (s : State) : (reconstructBlock s).oorCount = s.oorCount := rfl
@[simp] theorem reconstructBlock_overrunCount (s : State) : (reconstructBlock s).overrunCount = s.overrunCount := rfl
@[simp] theorem reconstructBlock_segcapCount (s : State) : (reconstructBlock s).segcapCount = s.segcapCount := rfl
@[simp] theorem reconstructBlock_endPos (s : State) : (reconstructBlock s).endPos = s.endPos := rfl
@[simp] theorem reconstructBlock_endInfo (s : State) : (reconstructBlock s).endInfo = s.endInfo := rfl
@[simp] theorem reconstructBlock_phase (s : State) : (reconstructBlock s).phase = s.phase := rfl
@[simp] theorem reconstructBlock_stage (s : State) : (reconstructBlock s).stage = s.stage := rfl
@[simp] theorem reconstructBlock_cur (s : State) : (reconstructBlock s).cur = s.cur := rfl
@[simp] theorem reconstructBlock_hdr (s : State) : (reconstructBlock s).hdr = s.hdr := rfl
@[simp] theorem reconstructBlock_cursor (s : State) : (reconstructBlock s).cursor = s.cursor := rfl
@[simp] theorem reconstructBlock_pred (s : State) : (reconstructBlock s).pred = s.pred := rfl
@[simp] theorem reconstructBlock_blk (s : State) : (reconstructBlock s).blk = s.blk := rfl
@[simp] theorem reconstructBlock_mb (s : State) : (reconstructBlock s).mb = s.mb := rfl
@[simp] theorem reconstructBlock_k (s : State) : (reconstructBlock s).k = s.k := rfl
@[simp] theorem reconstructBlock_level (s : State) : (reconstructBlock s).level = s.level := rfl
@[simp] theorem reconstructBlock_qtag (s : State) : (reconstructBlock s).qtag = s.qtag := rfl
@[simp] theorem reconstructBlock_entryCount (s : State) : (reconstructBlock s).entryCount = s.entryCount := rfl
@[simp] theorem reconstructBlock_poisoned (s : State) : (reconstructBlock s).poisoned = s.poisoned := rfl
@[simp] theorem reconstructBlock_bpix (s : State) :
    (reconstructBlock s).bpix = s.bpix.set s.role (if s.poisoned then drawBlock s.channel s.draws else blockSamples s.cfg s.channel s.qtag s.level) := rfl
@[simp] theorem reconstructBlock_tile (s : State) : (reconstructBlock s).tile = s.tile := rfl
@[simp] theorem reconstructBlock_frame (s : State) : (reconstructBlock s).frame = s.frame := rfl
@[simp] theorem reconstructBlock_pending (s : State) : (reconstructBlock s).pending = s.pending := rfl
@[simp] theorem reconstructBlock_mem (s : State) : (reconstructBlock s).mem = s.mem := rfl
@[simp] theorem reconstructBlock_host (s : State) : (reconstructBlock s).host = s.host := rfl
@[simp] theorem reconstructBlock_readData (s : State) : (reconstructBlock s).readData = s.readData := rfl
@[simp] theorem reconstructBlock_out (s : State) : (reconstructBlock s).out = s.out := rfl
@[simp] theorem reconstructBlock_draws (s : State) :
    (reconstructBlock s).draws = if s.poisoned then s.draws + 64 else s.draws := rfl

/-! `mergePlaceTile`. -/

@[simp] theorem mergePlaceTile_cfg (s : State) : (mergePlaceTile s).cfg = s.cfg := rfl
@[simp] theorem mergePlaceTile_ctrl (s : State) : (mergePlaceTile s).ctrl = s.ctrl := rfl
@[simp] theorem mergePlaceTile_status (s : State) : (mergePlaceTile s).status = s.status := rfl
@[simp] theorem mergePlaceTile_inLen (s : State) : (mergePlaceTile s).inLen = s.inLen := rfl
@[simp] theorem mergePlaceTile_outCount (s : State) : (mergePlaceTile s).outCount = s.outCount := rfl
@[simp] theorem mergePlaceTile_segCount (s : State) : (mergePlaceTile s).segCount = s.segCount := rfl
@[simp] theorem mergePlaceTile_oorCount (s : State) : (mergePlaceTile s).oorCount = s.oorCount := rfl
@[simp] theorem mergePlaceTile_overrunCount (s : State) : (mergePlaceTile s).overrunCount = s.overrunCount := rfl
@[simp] theorem mergePlaceTile_segcapCount (s : State) : (mergePlaceTile s).segcapCount = s.segcapCount := rfl
@[simp] theorem mergePlaceTile_endPos (s : State) : (mergePlaceTile s).endPos = s.endPos := rfl
@[simp] theorem mergePlaceTile_endInfo (s : State) : (mergePlaceTile s).endInfo = s.endInfo := rfl
@[simp] theorem mergePlaceTile_phase (s : State) : (mergePlaceTile s).phase = s.phase := rfl
@[simp] theorem mergePlaceTile_stage (s : State) : (mergePlaceTile s).stage = s.stage := rfl
@[simp] theorem mergePlaceTile_cur (s : State) : (mergePlaceTile s).cur = s.cur := rfl
@[simp] theorem mergePlaceTile_hdr (s : State) : (mergePlaceTile s).hdr = s.hdr := rfl
@[simp] theorem mergePlaceTile_cursor (s : State) : (mergePlaceTile s).cursor = s.cursor := rfl
@[simp] theorem mergePlaceTile_pred (s : State) : (mergePlaceTile s).pred = s.pred := rfl
@[simp] theorem mergePlaceTile_blk (s : State) : (mergePlaceTile s).blk = s.blk := rfl
@[simp] theorem mergePlaceTile_mb (s : State) : (mergePlaceTile s).mb = s.mb := rfl
@[simp] theorem mergePlaceTile_k (s : State) : (mergePlaceTile s).k = s.k := rfl
@[simp] theorem mergePlaceTile_level (s : State) : (mergePlaceTile s).level = s.level := rfl
@[simp] theorem mergePlaceTile_qtag (s : State) : (mergePlaceTile s).qtag = s.qtag := rfl
@[simp] theorem mergePlaceTile_entryCount (s : State) : (mergePlaceTile s).entryCount = s.entryCount := rfl
@[simp] theorem mergePlaceTile_poisoned (s : State) : (mergePlaceTile s).poisoned = s.poisoned := rfl
@[simp] theorem mergePlaceTile_bpix (s : State) : (mergePlaceTile s).bpix = s.bpix := rfl
@[simp] theorem mergePlaceTile_tile (s : State) : (mergePlaceTile s).tile = mergeTile s.cfg s.bpix := rfl
@[simp] theorem mergePlaceTile_frame (s : State) :
    (mergePlaceTile s).frame = placeTile s.cfg s.mb (mergeTile s.cfg s.bpix) s.frame := rfl
@[simp] theorem mergePlaceTile_pending (s : State) : (mergePlaceTile s).pending = s.pending := rfl
@[simp] theorem mergePlaceTile_mem (s : State) : (mergePlaceTile s).mem = s.mem := rfl
@[simp] theorem mergePlaceTile_host (s : State) : (mergePlaceTile s).host = s.host := rfl
@[simp] theorem mergePlaceTile_readData (s : State) : (mergePlaceTile s).readData = s.readData := rfl
@[simp] theorem mergePlaceTile_out (s : State) : (mergePlaceTile s).out = s.out := rfl
@[simp] theorem mergePlaceTile_draws (s : State) : (mergePlaceTile s).draws = s.draws := rfl

/-! `acceptArtifact`. -/

@[simp] theorem acceptArtifact_cfg (s : State) : (acceptArtifact s).cfg = s.cfg := rfl
@[simp] theorem acceptArtifact_ctrl (s : State) : (acceptArtifact s).ctrl = s.ctrl := rfl
@[simp] theorem acceptArtifact_status (s : State) : (acceptArtifact s).status = { s.status with hold := false } := rfl
@[simp] theorem acceptArtifact_inLen (s : State) : (acceptArtifact s).inLen = s.inLen := rfl
@[simp] theorem acceptArtifact_outCount (s : State) : (acceptArtifact s).outCount = s.outCount := rfl
@[simp] theorem acceptArtifact_segCount (s : State) : (acceptArtifact s).segCount = s.segCount := rfl
@[simp] theorem acceptArtifact_oorCount (s : State) : (acceptArtifact s).oorCount = s.oorCount := rfl
@[simp] theorem acceptArtifact_overrunCount (s : State) : (acceptArtifact s).overrunCount = s.overrunCount := rfl
@[simp] theorem acceptArtifact_segcapCount (s : State) : (acceptArtifact s).segcapCount = s.segcapCount := rfl
@[simp] theorem acceptArtifact_endPos (s : State) : (acceptArtifact s).endPos = s.endPos := rfl
@[simp] theorem acceptArtifact_endInfo (s : State) : (acceptArtifact s).endInfo = s.endInfo := rfl
@[simp] theorem acceptArtifact_phase (s : State) : (acceptArtifact s).phase = s.phase := rfl
@[simp] theorem acceptArtifact_stage (s : State) : (acceptArtifact s).stage = s.stage := rfl
@[simp] theorem acceptArtifact_cur (s : State) : (acceptArtifact s).cur = s.cur := rfl
@[simp] theorem acceptArtifact_hdr (s : State) : (acceptArtifact s).hdr = s.hdr := rfl
@[simp] theorem acceptArtifact_cursor (s : State) : (acceptArtifact s).cursor = s.cursor := rfl
@[simp] theorem acceptArtifact_pred (s : State) : (acceptArtifact s).pred = s.pred := rfl
@[simp] theorem acceptArtifact_blk (s : State) : (acceptArtifact s).blk = s.blk := rfl
@[simp] theorem acceptArtifact_mb (s : State) : (acceptArtifact s).mb = s.mb := rfl
@[simp] theorem acceptArtifact_k (s : State) : (acceptArtifact s).k = s.k := rfl
@[simp] theorem acceptArtifact_level (s : State) : (acceptArtifact s).level = s.level := rfl
@[simp] theorem acceptArtifact_qtag (s : State) : (acceptArtifact s).qtag = s.qtag := rfl
@[simp] theorem acceptArtifact_entryCount (s : State) : (acceptArtifact s).entryCount = s.entryCount := rfl
@[simp] theorem acceptArtifact_poisoned (s : State) : (acceptArtifact s).poisoned = s.poisoned := rfl
@[simp] theorem acceptArtifact_bpix (s : State) : (acceptArtifact s).bpix = s.bpix := rfl
@[simp] theorem acceptArtifact_tile (s : State) : (acceptArtifact s).tile = s.tile := rfl
@[simp] theorem acceptArtifact_frame (s : State) : (acceptArtifact s).frame = s.frame := rfl
@[simp] theorem acceptArtifact_pending (s : State) : (acceptArtifact s).pending = none := rfl
@[simp] theorem acceptArtifact_mem (s : State) : (acceptArtifact s).mem = s.mem := rfl
@[simp] theorem acceptArtifact_host (s : State) : (acceptArtifact s).host = s.host := rfl
@[simp] theorem acceptArtifact_readData (s : State) : (acceptArtifact s).readData = s.readData := rfl
@[simp] theorem acceptArtifact_out (s : State) : (acceptArtifact s).out = s.out ++ s.pending.toList := rfl
@[simp] theorem acceptArtifact_draws (s : State) : (acceptArtifact s).draws = s.draws := rfl

/-! `startRun`. -/

@[simp] theorem startRun_cfg (m r e : Bool) (s : State) : (startRun m r e s).cfg = s.cfg := rfl
@[simp] theorem startRun_ctrl (m r e : Bool) (s : State) :
    (startRun m r e s).ctrl = { mode := m, reorg := r, srcErr := e } := rfl
@[simp] theorem startRun_status (m r e : Bool) (s : State) : (startRun m r e s).status = startedStatus := rfl
@[simp] theorem startRun_inLen (m r e : Bool) (s : State) : (startRun m r e s).inLen = s.inLen := rfl
@[simp] theorem startRun_outCount (m r e : Bool) (s : State) : (startRun m r e s).outCount = 0 := rfl
@[simp] theorem startRun_segCount (m r e : Bool) (s : State) : (startRun m r e s).segCount = 0 := rfl
@[simp] theorem startRun_oorCount (m r e : Bool) (s : State) : (startRun m r e s).oorCount = 0 := rfl
@[simp] theorem startRun_overrunCount (m r e : Bool) (s : State) : (startRun m r e s).overrunCount = 0 := rfl
@[simp] theorem startRun_segcapCount (m r e : Bool) (s : State) : (startRun m r e s).segcapCount = 0 := rfl
@[simp] theorem startRun_endPos (m r e : Bool) (s : State) : (startRun m r e s).endPos = 0 := rfl
@[simp] theorem startRun_endInfo (m r e : Bool) (s : State) : (startRun m r e s).endInfo = 0 := rfl
@[simp] theorem startRun_phase (m r e : Bool) (s : State) : (startRun m r e s).phase = .startCheck := rfl
@[simp] theorem startRun_stage (m r e : Bool) (s : State) : (startRun m r e s).stage = .first := rfl
@[simp] theorem startRun_cur (m r e : Bool) (s : State) : (startRun m r e s).cur = 0 := rfl
@[simp] theorem startRun_hdr (m r e : Bool) (s : State) : (startRun m r e s).hdr = s.hdr := rfl
@[simp] theorem startRun_cursor (m r e : Bool) (s : State) : (startRun m r e s).cursor = s.cursor := rfl
@[simp] theorem startRun_pred (m r e : Bool) (s : State) : (startRun m r e s).pred = s.pred := rfl
@[simp] theorem startRun_blk (m r e : Bool) (s : State) : (startRun m r e s).blk = s.blk := rfl
@[simp] theorem startRun_mb (m r e : Bool) (s : State) : (startRun m r e s).mb = s.mb := rfl
@[simp] theorem startRun_k (m r e : Bool) (s : State) : (startRun m r e s).k = s.k := rfl
@[simp] theorem startRun_level (m r e : Bool) (s : State) : (startRun m r e s).level = s.level := rfl
@[simp] theorem startRun_qtag (m r e : Bool) (s : State) : (startRun m r e s).qtag = s.qtag := rfl
@[simp] theorem startRun_entryCount (m r e : Bool) (s : State) : (startRun m r e s).entryCount = s.entryCount := rfl
@[simp] theorem startRun_poisoned (m r e : Bool) (s : State) : (startRun m r e s).poisoned = s.poisoned := rfl
@[simp] theorem startRun_bpix (m r e : Bool) (s : State) : (startRun m r e s).bpix = s.bpix := rfl
@[simp] theorem startRun_tile (m r e : Bool) (s : State) : (startRun m r e s).tile = s.tile := rfl
@[simp] theorem startRun_frame (m r e : Bool) (s : State) : (startRun m r e s).frame = s.frame := rfl
@[simp] theorem startRun_pending (m r e : Bool) (s : State) : (startRun m r e s).pending = none := rfl
@[simp] theorem startRun_mem (m r e : Bool) (s : State) : (startRun m r e s).mem = s.mem := rfl
@[simp] theorem startRun_host (m r e : Bool) (s : State) : (startRun m r e s).host = s.host := rfl
@[simp] theorem startRun_readData (m r e : Bool) (s : State) : (startRun m r e s).readData = s.readData := rfl
@[simp] theorem startRun_out (m r e : Bool) (s : State) : (startRun m r e s).out = s.out := rfl
@[simp] theorem startRun_draws (m r e : Bool) (s : State) : (startRun m r e s).draws = s.draws := rfl

/-! `setControl`. -/

@[simp] theorem setControl_cfg (m r e : Bool) (s : State) : (setControl m r e s).cfg = s.cfg := rfl
@[simp] theorem setControl_ctrl (m r e : Bool) (s : State) :
    (setControl m r e s).ctrl = { mode := m, reorg := r, srcErr := e } := rfl
@[simp] theorem setControl_status (m r e : Bool) (s : State) : (setControl m r e s).status = s.status := rfl
@[simp] theorem setControl_inLen (m r e : Bool) (s : State) : (setControl m r e s).inLen = s.inLen := rfl
@[simp] theorem setControl_outCount (m r e : Bool) (s : State) : (setControl m r e s).outCount = s.outCount := rfl
@[simp] theorem setControl_segCount (m r e : Bool) (s : State) : (setControl m r e s).segCount = s.segCount := rfl
@[simp] theorem setControl_oorCount (m r e : Bool) (s : State) : (setControl m r e s).oorCount = s.oorCount := rfl
@[simp] theorem setControl_overrunCount (m r e : Bool) (s : State) :
    (setControl m r e s).overrunCount = s.overrunCount := rfl
@[simp] theorem setControl_segcapCount (m r e : Bool) (s : State) :
    (setControl m r e s).segcapCount = s.segcapCount := rfl
@[simp] theorem setControl_endPos (m r e : Bool) (s : State) : (setControl m r e s).endPos = s.endPos := rfl
@[simp] theorem setControl_endInfo (m r e : Bool) (s : State) : (setControl m r e s).endInfo = s.endInfo := rfl
@[simp] theorem setControl_phase (m r e : Bool) (s : State) : (setControl m r e s).phase = s.phase := rfl
@[simp] theorem setControl_stage (m r e : Bool) (s : State) : (setControl m r e s).stage = s.stage := rfl
@[simp] theorem setControl_cur (m r e : Bool) (s : State) : (setControl m r e s).cur = s.cur := rfl
@[simp] theorem setControl_hdr (m r e : Bool) (s : State) : (setControl m r e s).hdr = s.hdr := rfl
@[simp] theorem setControl_cursor (m r e : Bool) (s : State) : (setControl m r e s).cursor = s.cursor := rfl
@[simp] theorem setControl_pred (m r e : Bool) (s : State) : (setControl m r e s).pred = s.pred := rfl
@[simp] theorem setControl_blk (m r e : Bool) (s : State) : (setControl m r e s).blk = s.blk := rfl
@[simp] theorem setControl_mb (m r e : Bool) (s : State) : (setControl m r e s).mb = s.mb := rfl
@[simp] theorem setControl_k (m r e : Bool) (s : State) : (setControl m r e s).k = s.k := rfl
@[simp] theorem setControl_level (m r e : Bool) (s : State) : (setControl m r e s).level = s.level := rfl
@[simp] theorem setControl_qtag (m r e : Bool) (s : State) : (setControl m r e s).qtag = s.qtag := rfl
@[simp] theorem setControl_entryCount (m r e : Bool) (s : State) :
    (setControl m r e s).entryCount = s.entryCount := rfl
@[simp] theorem setControl_poisoned (m r e : Bool) (s : State) : (setControl m r e s).poisoned = s.poisoned := rfl
@[simp] theorem setControl_bpix (m r e : Bool) (s : State) : (setControl m r e s).bpix = s.bpix := rfl
@[simp] theorem setControl_tile (m r e : Bool) (s : State) : (setControl m r e s).tile = s.tile := rfl
@[simp] theorem setControl_frame (m r e : Bool) (s : State) : (setControl m r e s).frame = s.frame := rfl
@[simp] theorem setControl_pending (m r e : Bool) (s : State) : (setControl m r e s).pending = s.pending := rfl
@[simp] theorem setControl_mem (m r e : Bool) (s : State) : (setControl m r e s).mem = s.mem := rfl
@[simp] theorem setControl_host (m r e : Bool) (s : State) : (setControl m r e s).host = s.host := rfl
@[simp] theorem setControl_readData (m r e : Bool) (s : State) : (setControl m r e s).readData = s.readData := rfl
@[simp] theorem setControl_out (m r e : Bool) (s : State) : (setControl m r e s).out = s.out := rfl
@[simp] theorem setControl_draws (m r e : Bool) (s : State) : (setControl m r e s).draws = s.draws := rfl

/-! `loadHeader`. -/

@[simp] theorem loadHeader_cfg (l y q v : Half) (s : State) : (loadHeader l y q v s).cfg = s.cfg := rfl
@[simp] theorem loadHeader_ctrl (l y q v : Half) (s : State) : (loadHeader l y q v s).ctrl = s.ctrl := rfl
@[simp] theorem loadHeader_status (l y q v : Half) (s : State) : (loadHeader l y q v s).status = s.status := rfl
@[simp] theorem loadHeader_inLen (l y q v : Half) (s : State) : (loadHeader l y q v s).inLen = s.inLen := rfl
@[simp] theorem loadHeader_outCount (l y q v : Half) (s : State) : (loadHeader l y q v s).outCount = s.outCount := rfl
@[simp] theorem loadHeader_segCount (l y q v : Half) (s : State) :
    (loadHeader l y q v s).segCount = satInc s.segCount := rfl
@[simp] theorem loadHeader_oorCount (l y q v : Half) (s : State) : (loadHeader l y q v s).oorCount = s.oorCount := rfl
@[simp] theorem loadHeader_overrunCount (l y q v : Half) (s : State) :
    (loadHeader l y q v s).overrunCount = s.overrunCount := rfl
@[simp] theorem loadHeader_segcapCount (l y q v : Half) (s : State) :
    (loadHeader l y q v s).segcapCount = s.segcapCount := rfl
@[simp] theorem loadHeader_endPos (l y q v : Half) (s : State) : (loadHeader l y q v s).endPos = s.endPos := rfl
@[simp] theorem loadHeader_endInfo (l y q v : Half) (s : State) : (loadHeader l y q v s).endInfo = s.endInfo := rfl
@[simp] theorem loadHeader_phase (l y q v : Half) (s : State) : (loadHeader l y q v s).phase = .segDecode := rfl
@[simp] theorem loadHeader_stage (l y q v : Half) (s : State) : (loadHeader l y q v s).stage = .first := rfl
@[simp] theorem loadHeader_cur (l y q v : Half) (s : State) : (loadHeader l y q v s).cur = s.cur := rfl
@[simp] theorem loadHeader_hdr (l y q v : Half) (s : State) :
    (loadHeader l y q v s).hdr = { length := l, typeId := y, quant := q, version := v, flat := s.cfg.flatVersions.contains v } := rfl
@[simp] theorem loadHeader_cursor (l y q v : Half) (s : State) : (loadHeader l y q v s).cursor = s.cursor := rfl
@[simp] theorem loadHeader_pred (l y q v : Half) (s : State) : (loadHeader l y q v s).pred = s.pred := rfl
@[simp] theorem loadHeader_blk (l y q v : Half) (s : State) : (loadHeader l y q v s).blk = s.blk := rfl
@[simp] theorem loadHeader_mb (l y q v : Half) (s : State) : (loadHeader l y q v s).mb = s.mb := rfl
@[simp] theorem loadHeader_k (l y q v : Half) (s : State) : (loadHeader l y q v s).k = s.k := rfl
@[simp] theorem loadHeader_level (l y q v : Half) (s : State) : (loadHeader l y q v s).level = s.level := rfl
@[simp] theorem loadHeader_qtag (l y q v : Half) (s : State) : (loadHeader l y q v s).qtag = s.qtag := rfl
@[simp] theorem loadHeader_entryCount (l y q v : Half) (s : State) :
    (loadHeader l y q v s).entryCount = s.entryCount := rfl
@[simp] theorem loadHeader_poisoned (l y q v : Half) (s : State) : (loadHeader l y q v s).poisoned = s.poisoned := rfl
@[simp] theorem loadHeader_bpix (l y q v : Half) (s : State) : (loadHeader l y q v s).bpix = s.bpix := rfl
@[simp] theorem loadHeader_tile (l y q v : Half) (s : State) : (loadHeader l y q v s).tile = s.tile := rfl
@[simp] theorem loadHeader_frame (l y q v : Half) (s : State) : (loadHeader l y q v s).frame = s.frame := rfl
@[simp] theorem loadHeader_pending (l y q v : Half) (s : State) : (loadHeader l y q v s).pending = s.pending := rfl
@[simp] theorem loadHeader_mem (l y q v : Half) (s : State) : (loadHeader l y q v s).mem = s.mem := rfl
@[simp] theorem loadHeader_host (l y q v : Half) (s : State) : (loadHeader l y q v s).host = s.host := rfl
@[simp] theorem loadHeader_readData (l y q v : Half) (s : State) : (loadHeader l y q v s).readData = s.readData := rfl
@[simp] theorem loadHeader_out (l y q v : Half) (s : State) : (loadHeader l y q v s).out = s.out := rfl
@[simp] theorem loadHeader_draws (l y q v : Half) (s : State) : (loadHeader l y q v s).draws = s.draws := rfl

/-! `handOverTexture`. -/

@[simp] theorem handOverTexture_cfg (s : State) : (handOverTexture s).cfg = s.cfg := rfl
@[simp] theorem handOverTexture_ctrl (s : State) : (handOverTexture s).ctrl = s.ctrl := rfl
@[simp] theorem handOverTexture_status (s : State) :
    (handOverTexture s).status = { s.status with hold := true } := rfl
@[simp] theorem handOverTexture_inLen (s : State) : (handOverTexture s).inLen = s.inLen := rfl
@[simp] theorem handOverTexture_outCount (s : State) : (handOverTexture s).outCount = satInc s.outCount := rfl
@[simp] theorem handOverTexture_segCount (s : State) : (handOverTexture s).segCount = satInc s.segCount := rfl
@[simp] theorem handOverTexture_oorCount (s : State) : (handOverTexture s).oorCount = s.oorCount := rfl
@[simp] theorem handOverTexture_overrunCount (s : State) : (handOverTexture s).overrunCount = s.overrunCount := rfl
@[simp] theorem handOverTexture_segcapCount (s : State) : (handOverTexture s).segcapCount = s.segcapCount := rfl
@[simp] theorem handOverTexture_endPos (s : State) : (handOverTexture s).endPos = s.endPos := rfl
@[simp] theorem handOverTexture_endInfo (s : State) : (handOverTexture s).endInfo = s.endInfo := rfl
@[simp] theorem handOverTexture_phase (s : State) : (handOverTexture s).phase = s.phase := rfl
@[simp] theorem handOverTexture_stage (s : State) : (handOverTexture s).stage = .terminal := rfl
@[simp] theorem handOverTexture_cur (s : State) : (handOverTexture s).cur = s.cur := rfl
@[simp] theorem handOverTexture_hdr (s : State) : (handOverTexture s).hdr = s.hdr := rfl
@[simp] theorem handOverTexture_cursor (s : State) : (handOverTexture s).cursor = s.cursor := rfl
@[simp] theorem handOverTexture_pred (s : State) : (handOverTexture s).pred = s.pred := rfl
@[simp] theorem handOverTexture_blk (s : State) : (handOverTexture s).blk = s.blk := rfl
@[simp] theorem handOverTexture_mb (s : State) : (handOverTexture s).mb = s.mb := rfl
@[simp] theorem handOverTexture_k (s : State) : (handOverTexture s).k = s.k := rfl
@[simp] theorem handOverTexture_level (s : State) : (handOverTexture s).level = s.level := rfl
@[simp] theorem handOverTexture_qtag (s : State) : (handOverTexture s).qtag = s.qtag := rfl
@[simp] theorem handOverTexture_entryCount (s : State) : (handOverTexture s).entryCount = s.entryCount := rfl
@[simp] theorem handOverTexture_poisoned (s : State) : (handOverTexture s).poisoned = s.poisoned := rfl
@[simp] theorem handOverTexture_bpix (s : State) : (handOverTexture s).bpix = s.bpix := rfl
@[simp] theorem handOverTexture_tile (s : State) : (handOverTexture s).tile = s.tile := rfl
@[simp] theorem handOverTexture_frame (s : State) : (handOverTexture s).frame = s.frame := rfl
@[simp] theorem handOverTexture_pending (s : State) :
    (handOverTexture s).pending = some (.nativeTexture s.outCount (restOfInput s)) := rfl
@[simp] theorem handOverTexture_mem (s : State) : (handOverTexture s).mem = s.mem := rfl
@[simp] theorem handOverTexture_host (s : State) : (handOverTexture s).host = s.host := rfl
@[simp] theorem handOverTexture_readData (s : State) : (handOverTexture s).readData = s.readData := rfl
@[simp] theorem handOverTexture_out (s : State) : (handOverTexture s).out = s.out := rfl
@[simp] theorem handOverTexture_draws (s : State) : (handOverTexture s).draws = s.draws := rfl

/-! `handOverUnknown`. -/

@[simp] theorem handOverUnknown_cfg (s : State) : (handOverUnknown s).cfg = s.cfg := rfl
@[simp] theorem handOverUnknown_ctrl (s : State) : (handOverUnknown s).ctrl = s.ctrl := rfl
@[simp] theorem handOverUnknown_status (s : State) :
    (handOverUnknown s).status = { s.status with hold := true } := rfl
@[simp] theorem handOverUnknown_inLen (s : State) : (handOverUnknown s).inLen = s.inLen := rfl
@[simp] theorem handOverUnknown_outCount (s : State) : (handOverUnknown s).outCount = satInc s.outCount := rfl
@[simp] theorem handOverUnknown_segCount (s : State) : (handOverUnknown s).segCount = satInc s.segCount := rfl
@[simp] theorem handOverUnknown_oorCount (s : State) : (handOverUnknown s).oorCount = s.oorCount := rfl
@[simp] theorem handOverUnknown_overrunCount (s : State) : (handOverUnknown s).overrunCount = s.overrunCount := rfl
@[simp] theorem handOverUnknown_segcapCount (s : State) : (handOverUnknown s).segcapCount = s.segcapCount := rfl
@[simp] theorem handOverUnknown_endPos (s : State) : (handOverUnknown s).endPos = s.endPos := rfl
@[simp] theorem handOverUnknown_endInfo (s : State) : (handOverUnknown s).endInfo = s.endInfo := rfl
@[simp] theorem handOverUnknown_phase (s : State) : (handOverUnknown s).phase = s.phase := rfl
@[simp] theorem handOverUnknown_stage (s : State) : (handOverUnknown s).stage = .terminal := rfl
@[simp] theorem handOverUnknown_cur (s : State) : (handOverUnknown s).cur = s.cur := rfl
@[simp] theorem handOverUnknown_hdr (s : State) : (handOverUnknown s).hdr = s.hdr := rfl
@[simp] theorem handOverUnknown_cursor (s : State) : (handOverUnknown s).cursor = s.cursor := rfl
@[simp] theorem handOverUnknown_pred (s : State) : (handOverUnknown s).pred = s.pred := rfl
@[simp] theorem handOverUnknown_blk (s : State) : (handOverUnknown s).blk = s.blk := rfl
@[simp] theorem handOverUnknown_mb (s : State) : (handOverUnknown s).mb = s.mb := rfl
@[simp] theorem handOverUnknown_k (s : State) : (handOverUnknown s).k = s.k := rfl
@[simp] theorem handOverUnknown_level (s : State) : (handOverUnknown s).level = s.level := rfl
@[simp] theorem handOverUnknown_qtag (s : State) : (handOverUnknown s).qtag = s.qtag := rfl
@[simp] theorem handOverUnknown_entryCount (s : State) : (handOverUnknown s).entryCount = s.entryCount := rfl
@[simp] theorem handOverUnknown_poisoned (s : State) : (handOverUnknown s).poisoned = s.poisoned := rfl
@[simp] theorem handOverUnknown_bpix (s : State) : (handOverUnknown s).bpix = s.bpix := rfl
@[simp] theorem handOverUnknown_tile (s : State) : (handOverUnknown s).tile = s.tile := rfl
@[simp] theorem handOverUnknown_frame (s : State) : (handOverUnknown s).frame = s.frame := rfl
@[simp] theorem handOverUnknown_pending (s : State) :
    (handOverUnknown s).pending = some (.rawVerbatim s.outCount (restOfInput s)) := rfl
@[simp] theorem handOverUnknown_mem (s : State) : (handOverUnknown s).mem = s.mem := rfl
@[simp] theorem handOverUnknown_host (s : State) : (handOverUnknown s).host = s.host := rfl
@[simp] theorem handOverUnknown_readData (s : State) : (handOverUnknown s).readData = s.readData := rfl
@[simp] theorem handOverUnknown_out (s : State) : (handOverUnknown s).out = s.out := rfl
@[simp] theorem handOverUnknown_draws (s : State) : (handOverUnknown s).draws = s.draws := rfl

/-! `handOverImage`. -/

@[simp] theorem handOverImage_cfg (s : State) : (handOverImage s).cfg = s.cfg := rfl
@[simp] theorem handOverImage_ctrl (s : State) : (handOverImage s).ctrl = s.ctrl := rfl
@[simp] theorem handOverImage_status (s : State) : (handOverImage s).status = { s.status with hold := true } := rfl
@[simp] theorem handOverImage_inLen (s : State) : (handOverImage s).inLen = s.inLen := rfl
@[simp] theorem handOverImage_outCount (s : State) : (handOverImage s).outCount = satInc s.outCount := rfl
@[simp] theorem handOverImage_segCount (s : State) : (handOverImage s).segCount = satInc s.segCount := rfl
@[simp] theorem handOverImage_oorCount (s : State) : (handOverImage s).oorCount = s.oorCount := rfl
@[simp] theorem handOverImage_overrunCount (s : State) : (handOverImage s).overrunCount = s.overrunCount := rfl
@[simp] theorem handOverImage_segcapCount (s : State) : (handOverImage s).segcapCount = s.segcapCount := rfl
@[simp] theorem handOverImage_endPos (s : State) : (handOverImage s).endPos = s.endPos := rfl
@[simp] theorem handOverImage_endInfo (s : State) : (handOverImage s).endInfo = s.endInfo := rfl
@[simp] theorem handOverImage_phase (s : State) : (handOverImage s).phase = s.phase := rfl
@[simp] theorem handOverImage_stage (s : State) : (handOverImage s).stage = .advance := rfl
@[simp] theorem handOverImage_cur (s : State) : (handOverImage s).cur = s.cur := rfl
@[simp] theorem handOverImage_hdr (s : State) : (handOverImage s).hdr = s.hdr := rfl
@[simp] theorem handOverImage_cursor (s : State) : (handOverImage s).cursor = s.cursor := rfl
@[simp] theorem handOverImage_pred (s : State) : (handOverImage s).pred = s.pred := rfl
@[simp] theorem handOverImage_blk (s : State) : (handOverImage s).blk = s.blk := rfl
@[simp] theorem handOverImage_mb (s : State) : (handOverImage s).mb = s.mb := rfl
@[simp] theorem handOverImage_k (s : State) : (handOverImage s).k = s.k := rfl
@[simp] theorem handOverImage_level (s : State) : (handOverImage s).level = s.level := rfl
@[simp] theorem handOverImage_qtag (s : State) : (handOverImage s).qtag = s.qtag := rfl
@[simp] theorem handOverImage_entryCount (s : State) : (handOverImage s).entryCount = s.entryCount := rfl
@[simp] theorem handOverImage_poisoned (s : State) : (handOverImage s).poisoned = s.poisoned := rfl
@[simp] theorem handOverImage_bpix (s : State) : (handOverImage s).bpix = s.bpix := rfl
@[simp] theorem handOverImage_tile (s : State) : (handOverImage s).tile = s.tile := rfl
@[simp] theorem handOverImage_frame (s : State) : (handOverImage s).frame = rawImage s.mem s.cur s.ctrl.reorg := by
  simp only [handOverImage, emit_frame, countSegment_outCount]
@[simp] theorem handOverImage_pending (s : State) :
    (handOverImage s).pending = some (.image s.outCount (rawImage s.mem s.cur s.ctrl.reorg) (rawWidth s.ctrl.reorg) (rawHeight s.ctrl.reorg) 16) := by
  simp only [handOverImage, emit_pending, countSegment_outCount]
@[simp] theorem handOverImage_mem (s : State) : (handOverImage s).mem = s.mem := rfl
@[simp] theorem handOverImage_host (s : State) : (handOverImage s).host = s.host := rfl
@[simp] theorem handOverImage_readData (s : State) : (handOverImage s).readData = s.readData := rfl
@[simp] theorem handOverImage_out (s : State) : (handOverImage s).out = s.out := rfl
@[simp] theorem handOverImage_draws (s : State) : (handOverImage s).draws = s.draws := rfl

/-! `advanceChunk`. -/

@[simp] theorem advanceChunk_cfg (s : State) : (advanceChunk s).cfg = s.cfg := rfl
@[simp] theorem advanceChunk_ctrl (s : State) : (advanceChunk s).ctrl = s.ctrl := rfl
@[simp] theorem advanceChunk_status (s : State) : (advanceChunk s).status = s.status := rfl
@[simp] theorem advanceChunk_inLen (s : State) : (advanceChunk s).inLen = s.inLen := rfl
@[simp] theorem advanceChunk_outCount (s : State) : (advanceChunk s).outCount = s.outCount := rfl
@[simp] theorem advanceChunk_segCount (s : State) : (advanceChunk s).segCount = s.segCount := rfl
@[simp] theorem advanceChunk_oorCount (s : State) : (advanceChunk s).oorCount = s.oorCount := rfl
@[simp] theorem advanceChunk_overrunCount (s : State) : (advanceChunk s).overrunCount = s.overrunCount := rfl
@[simp] theorem advanceChunk_segcapCount (s : State) : (advanceChunk s).segcapCount = s.segcapCount := rfl
@[simp] theorem advanceChunk_endPos (s : State) : (advanceChunk s).endPos = s.endPos := rfl
@[simp] theorem advanceChunk_endInfo (s : State) : (advanceChunk s).endInfo = s.endInfo := rfl
@[simp] theorem advanceChunk_phase (s : State) : (advanceChunk s).phase = s.phase := rfl
@[simp] theorem advanceChunk_stage (s : State) : (advanceChunk s).stage = .first := rfl
@[simp] theorem advanceChunk_cur (s : State) : (advanceChunk s).cur = s.cur + 163840 := rfl
@[simp] theorem advanceChunk_hdr (s : State) : (advanceChunk s).hdr = s.hdr := rfl
@[simp] theorem advanceChunk_cursor (s : State) : (advanceChunk s).cursor = s.cursor := rfl
@[simp] theorem advanceChunk_pred (s : State) : (advanceChunk s).pred = s.pred := rfl
@[simp] theorem advanceChunk_blk (s : State) : (advanceChunk s).blk = s.blk := rfl
@[simp] theorem advanceChunk_mb (s : State) : (advanceChunk s).mb = s.mb := rfl
@[simp] theorem advanceChunk_k (s : State) : (advanceChunk s).k = s.k := rfl
@[simp] theorem advanceChunk_level (s : State) : (advanceChunk s).level = s.level := rfl
@[simp] theorem advanceChunk_qtag (s : State) : (advanceChunk s).qtag = s.qtag := rfl
@[simp] theorem advanceChunk_entryCount (s : State) : (advanceChunk s).entryCount = s.entryCount := rfl
@[simp] theorem advanceChunk_poisoned (s : State) : (advanceChunk s).poisoned = s.poisoned := rfl
@[simp] theorem advanceChunk_bpix (s : State) : (advanceChunk s).bpix = s.bpix := rfl
@[simp] theorem advanceChunk_tile (s : State) : (advanceChunk s).tile = s.tile := rfl
@[simp] theorem advanceChunk_frame (s : State) : (advanceChunk s).frame = s.frame := rfl
@[simp] theorem advanceChunk_pending (s : State) : (advanceChunk s).pending = s.pending := rfl
@[simp] theorem advanceChunk_mem (s : State) : (advanceChunk s).mem = s.mem := rfl
@[simp] theorem advanceChunk_host (s : State) : (advanceChunk s).host = s.host := rfl
@[simp] theorem advanceChunk_readData (s : State) : (advanceChunk s).readData = s.readData := rfl
@[simp] theorem advanceChunk_out (s : State) : (advanceChunk s).out = s.out := rfl
@[simp] theorem advanceChunk_draws (s : State) : (advanceChunk s).draws = s.draws := rfl

/-! `toProbe`. -/

@[simp] theorem toProbe_cfg (s : State) : (toProbe s).cfg = s.cfg := rfl
@[simp] theorem toProbe_ctrl (s : State) : (toProbe s).ctrl = s.ctrl := rfl
@[simp] theorem toProbe_status (s : State) : (toProbe s).status = s.status := rfl
@[simp] theorem toProbe_inLen (s : State) : (toProbe s).inLen = s.inLen := rfl
@[simp] theorem toProbe_outCount (s : State) : (toProbe s).outCount = s.outCount := rfl
@[simp] theorem toProbe_segCount (s : State) : (toProbe s).segCount = s.segCount := rfl
@[simp] theorem toProbe_oorCount (s : State) : (toProbe s).oorCount = s.oorCount := rfl
@[simp] theorem toProbe_overrunCount (s : State) : (toProbe s).overrunCount = s.overrunCount := rfl
@[simp] theorem toProbe_segcapCount (s : State) : (toProbe s).segcapCount = s.segcapCount := rfl
@[simp] theorem toProbe_endPos (s : State) : (toProbe s).endPos = s.endPos := rfl
@[simp] theorem toProbe_endInfo (s : State) : (toProbe s).endInfo = s.endInfo := rfl
@[simp] theorem toProbe_phase (s : State) : (toProbe s).phase = .segProbe := rfl
@[simp] theorem toProbe_stage (s : State) : (toProbe s).stage = .first := rfl
@[simp] theorem toProbe_cur (s : State) : (toProbe s).cur = s.cur := rfl
@[simp] theorem toProbe_hdr (s : State) : (toProbe s).hdr = s.hdr := rfl
@[simp] theorem toProbe_cursor (s : State) : (toProbe s).cursor = s.cursor := rfl
@[simp] theorem toProbe_pred (s : State) : (toProbe s).pred = s.pred := rfl
@[simp] theorem toProbe_blk (s : State) : (toProbe s).blk = s.blk := rfl
@[simp] theorem toProbe_mb (s : State) : (toProbe s).mb = s.mb := rfl
@[simp] theorem toProbe_k (s : State) : (toProbe s).k = s.k := rfl
@[simp] theorem toProbe_level (s : State) : (toProbe s).level = s.level := rfl
@[simp] theorem toProbe_qtag (s : State) : (toProbe s).qtag = s.qtag := rfl
@[simp] theorem toProbe_entryCount (s : State) : (toProbe s).entryCount = s.entryCount := rfl
@[simp] theorem toProbe_poisoned (s : State) : (toProbe s).poisoned = s.poisoned := rfl
@[simp] theorem toProbe_bpix (s : State) : (toProbe s).bpix = s.bpix := rfl
@[simp] theorem toProbe_tile (s : State) : (toProbe s).tile = s.tile := rfl
@[simp] theorem toProbe_frame (s : State) : (toProbe s).frame = s.frame := rfl
@[simp] theorem toProbe_pending (s : State) : (toProbe s).pending = s.pending := rfl
@[simp] theorem toProbe_mem (s : State) : (toProbe s).mem = s.mem := rfl
@[simp] theorem toProbe_host (s : State) : (toProbe s).host = s.host := rfl
@[simp] theorem toProbe_readData (s : State) : (toProbe s).readData = s.readData := rfl
@[simp] theorem toProbe_out (s : State) : (toProbe s).out = s.out := rfl
@[simp] theorem toProbe_draws (s : State) : (toProbe s).draws = s.draws := rfl

/-! `writeRegister`. -/

@[simp] theorem writeRegister_cfg (off : Nat) (v : Word) (s : State) : (writeRegister off v s).cfg = s.cfg := rfl
@[simp] theorem writeRegister_ctrl (off : Nat) (v : Word) (s : State) : (writeRegister off v s).ctrl = s.ctrl := rfl
@[simp] theorem writeRegister_status (off : Nat) (v : Word) (s : State) :
    (writeRegister off v s).status = s.status := rfl
@[simp] theorem writeRegister_inLen (off : Nat) (v : Word) (s : State) :
    (writeRegister off v s).inLen = if off = 0x08 ∧ s.status.busy = false then v else s.inLen := rfl
@[simp] theorem writeRegister_outCount (off : Nat) (v : Word) (s : State) :
    (writeRegister off v s).outCount = s.outCount := rfl
@[simp] theorem writeRegister_segCount (off : Nat) (v : Word) (s : State) :
    (writeRegister off v s).segCount = s.segCount := rfl
@[simp] theorem writeRegister_oorCount (off : Nat) (v : Word) (s : State) :
    (writeRegister off v s).oorCount = s.oorCount := rfl
@[simp] theorem writeRegister_overrunCount (off : Nat) (v : Word) (s : State) :
    (writeRegister off v s).overrunCount = s.overrunCount := rfl
@[simp] theorem writeRegister_segcapCount (off : Nat) (v : Word) (s : State) :
    (writeRegister off v s).segcapCount = s.segcapCount := rfl
@[simp] theorem writeRegister_endPos (off : Nat) (v : Word) (s : State) :
    (writeRegister off v s).endPos = s.endPos := rfl
@[simp] theorem writeRegister_endInfo (off : Nat) (v : Word) (s : State) :
    (writeRegister off v s).endInfo = s.endInfo := rfl
@[simp] theorem writeRegister_phase (off : Nat) (v : Word) (s : State) :
    (writeRegister off v s).phase = s.phase := rfl
@[simp] theorem writeRegister_stage (off : Nat) (v : Word) (s : State) :
    (writeRegister off v s).stage = s.stage := rfl
@[simp] theorem writeRegister_cur (off : Nat) (v : Word) (s : State) : (writeRegister off v s).cur = s.cur := rfl
@[simp] theorem writeRegister_hdr (off : Nat) (v : Word) (s : State) : (writeRegister off v s).hdr = s.hdr := rfl
@[simp] theorem writeRegister_cursor (off : Nat) (v : Word) (s : State) :
    (writeRegister off v s).cursor = s.cursor := rfl
@[simp] theorem writeRegister_pred (off : Nat) (v : Word) (s : State) : (writeRegister off v s).pred = s.pred := rfl
@[simp] theorem writeRegister_blk (off : Nat) (v : Word) (s : State) : (writeRegister off v s).blk = s.blk := rfl
@[simp] theorem writeRegister_mb (off : Nat) (v : Word) (s : State) : (writeRegister off v s).mb = s.mb := rfl
@[simp] theorem writeRegister_k (off : Nat) (v : Word) (s : State) : (writeRegister off v s).k = s.k := rfl
@[simp] theorem writeRegister_level (off : Nat) (v : Word) (s : State) :
    (writeRegister off v s).level = s.level := rfl
@[simp] theorem writeRegister_qtag (off : Nat) (v : Word) (s : State) : (writeRegister off v s).qtag = s.qtag := rfl
@[simp] theorem writeRegister_entryCount (off : Nat) (v : Word) (s : State) :
    (writeRegister off v s).entryCount = s.entryCount := rfl
@[simp] theorem writeRegister_poisoned (off : Nat) (v : Word) (s : State) :
    (writeRegister off v s).poisoned = s.poisoned := rfl
@[simp] theorem writeRegister_bpix (off : Nat) (v : Word) (s : State) : (writeRegister off v s).bpix = s.bpix := rfl
@[simp] theorem writeRegister_tile (off : Nat) (v : Word) (s : State) : (writeRegister off v s).tile = s.tile := rfl
@[simp] theorem writeRegister_frame (off : Nat) (v : Word) (s : State) :
    (writeRegister off v s).frame = s.frame := rfl
@[simp] theorem writeRegister_pending (off : Nat) (v : Word) (s : State) :
    (writeRegister off v s).pending = s.pending := rfl
@[simp] theorem writeRegister_mem (off : Nat) (v : Word) (s : State) : (writeRegister off v s).mem = s.mem := rfl
@[simp] theorem writeRegister_host (off : Nat) (v : Word) (s : State) : (writeRegister off v s).host = s.host := rfl
@[simp] theorem writeRegister_readData (off : Nat) (v : Word) (s : State) :
    (writeRegister off v s).readData = s.readData := rfl
@[simp] theorem writeRegister_out (off : Nat) (v : Word) (s : State) : (writeRegister off v s).out = s.out := rfl
@[simp] theorem writeRegister_draws (off : Nat) (v : Word) (s : State) :
    (writeRegister off v s).draws = s.draws := rfl

/-! `segmentInit`. -/

@[simp] theorem segmentInit_cfg (s : State) : (segmentInit s).cfg = s.cfg := rfl
@[simp] theorem segmentInit_ctrl (s : State) : (segmentInit s).ctrl = s.ctrl := rfl
@[simp] theorem segmentInit_status (s : State) : (segmentInit s).status = s.status := rfl
@[simp] theorem segmentInit_inLen (s : State) : (segmentInit s).inLen = s.inLen := rfl
@[simp] theorem segmentInit_outCount (s : State) : (segmentInit s).outCount = s.outCount := rfl
@[simp] theorem segmentInit_segCount (s : State) : (segmentInit s).segCount = s.segCount := rfl
@[simp] theorem segmentInit_oorCount (s : State) : (segmentInit s).oorCount = s.oorCount := rfl
@[simp] theorem segmentInit_overrunCount (s : State) : (segmentInit s).overrunCount = s.overrunCount := rfl
@[simp] theorem segmentInit_segcapCount (s : State) : (segmentInit s).segcapCount = s.segcapCount := rfl
@[simp] theorem segmentInit_endPos (s : State) : (segmentInit s).endPos = s.endPos := rfl
@[simp] theorem segmentInit_endInfo (s : State) : (segmentInit s).endInfo = s.endInfo := rfl
@[simp] theorem segmentInit_phase (s : State) : (segmentInit s).phase = s.phase := rfl
@[simp] theorem segmentInit_stage (s : State) :
    (segmentInit s).stage = if s.cfg.mbCount = 0 then .emitFrame else .dcItem := rfl
@[simp] theorem segmentInit_cur (s : State) : (segmentInit s).cur = s.cur := rfl
@[simp] theorem segmentInit_hdr (s : State) : (segmentInit s).hdr = s.hdr := rfl
@[simp] theorem segmentInit_cursor (s : State) :
    (segmentInit s).cursor = Cursor.init s.mem (s.cur + 8) (segmentEnd s) := rfl
@[simp] theorem segmentInit_pred (s : State) : (segmentInit s).pred = Pred.zero := rfl
@[simp] theorem segmentInit_blk (s : State) : (segmentInit s).blk = 0 := rfl
@[simp] theorem segmentInit_mb (s : State) : (segmentInit s).mb = 0 := rfl
@[simp] theorem segmentInit_k (s : State) : (segmentInit s).k = s.k := rfl
@[simp] theorem segmentInit_level (s : State) : (segmentInit s).level = s.level := rfl
@[simp] theorem segmentInit_qtag (s : State) : (segmentInit s).qtag = s.qtag := rfl
@[simp] theorem segmentInit_entryCount (s : State) : (segmentInit s).entryCount = 0 := rfl
@[simp] theorem segmentInit_poisoned (s : State) : (segmentInit s).poisoned = s.poisoned := rfl
@[simp] theorem segmentInit_bpix (s : State) : (segmentInit s).bpix = s.bpix := rfl
@[simp] theorem segmentInit_tile (s : State) : (segmentInit s).tile = s.tile := rfl
@[simp] theorem segmentInit_frame (s : State) : (segmentInit s).frame = s.frame := rfl
@[simp] theorem segmentInit_pending (s : State) : (segmentInit s).pending = s.pending := rfl
@[simp] theorem segmentInit_mem (s : State) : (segmentInit s).mem = s.mem := rfl
@[simp] theorem segmentInit_host (s : State) : (segmentInit s).host = s.host := rfl
@[simp] theorem segmentInit_readData (s : State) : (segmentInit s).readData = s.readData := rfl
@[simp] theorem segmentInit_out (s : State) : (segmentInit s).out = s.out := rfl
@[simp] theorem segmentInit_draws (s : State) : (segmentInit s).draws = s.draws := rfl

/-! `dcPredict`. -/

@[simp] theorem dcPredict_cfg (c : Channel) (d : Int) (s : State) : (dcPredict c d s).cfg = s.cfg := rfl
@[simp] theorem dcPredict_ctrl (c : Channel) (d : Int) (s : State) : (dcPredict c d s).ctrl = s.ctrl := rfl
@[simp] theorem dcPredict_status (c : Channel) (d : Int) (s : State) : (dcPredict c d s).status = s.status := rfl
@[simp] theorem dcPredict_inLen (c : Channel) (d : Int) (s : State) : (dcPredict c d s).inLen = s.inLen := rfl
@[simp] theorem dcPredict_outCount (c : Channel) (d : Int) (s : State) :
    (dcPredict c d s).outCount = s.outCount := rfl
@[simp] theorem dcPredict_segCount (c : Channel) (d : Int) (s : State) :
    (dcPredict c d s).segCount = s.segCount := rfl
@[simp] theorem dcPredict_oorCount (c : Channel) (d : Int) (s : State) :
    (dcPredict c d s).oorCount = s.oorCount := rfl
@[simp] theorem dcPredict_overrunCount (c : Channel) (d : Int) (s : State) :
    (dcPredict c d s).overrunCount = s.overrunCount := rfl
@[simp] theorem dcPredict_segcapCount (c : Channel) (d : Int) (s : State) :
    (dcPredict c d s).segcapCount = if pastCapacity s.cfg (s.entryCount + 1) then satInc s.segcapCount else s.segcapCount := rfl
@[simp] theorem dcPredict_endPos (c : Channel) (d : Int) (s : State) : (dcPredict c d s).endPos = s.endPos := rfl
@[simp] theorem dcPredict_endInfo (c : Channel) (d : Int) (s : State) : (dcPredict c d s).endInfo = s.endInfo := rfl
@[simp] theorem dcPredict_phase (c : Channel) (d : Int) (s : State) : (dcPredict c d s).phase = s.phase := rfl
@[simp] theorem dcPredict_stage (c : Channel) (d : Int) (s : State) : (dcPredict c d s).stage = .acItem := rfl
@[simp] theorem dcPredict_cur (c : Channel) (d : Int) (s : State) : (dcPredict c d s).cur = s.cur := rfl
@[simp] theorem dcPredict_hdr (c : Channel) (d : Int) (s : State) : (dcPredict c d s).hdr = s.hdr := rfl
@[simp] theorem dcPredict_cursor (c : Channel) (d : Int) (s : State) : (dcPredict c d s).cursor = s.cursor := rfl
@[simp] theorem dcPredict_pred (c : Channel) (d : Int) (s : State) :
    (dcPredict c d s).pred = s.pred.set c (s.pred.get c + 4 * d) := rfl
@[simp] theorem dcPredict_blk (c : Channel) (d : Int) (s : State) : (dcPredict c d s).blk = s.blk := rfl
@[simp] theorem dcPredict_mb (c : Channel) (d : Int) (s : State) : (dcPredict c d s).mb = s.mb := rfl
@[simp] theorem dcPredict_k (c : Channel) (d : Int) (s : State) : (dcPredict c d s).k = s.k := rfl
@[simp] theorem dcPredict_level (c : Channel) (d : Int) (s : State) :
    (dcPredict c d s).level = s.level.set 0 (s.pred.get c + 4 * d) := rfl
@[simp] theorem dcPredict_qtag (c : Channel) (d : Int) (s : State) : (dcPredict c d s).qtag = s.hdr.quant := rfl
@[simp] theorem dcPredict_entryCount (c : Channel) (d : Int) (s : State) :
    (dcPredict c d s).entryCount = s.entryCount + 1 := rfl
@[simp] theorem dcPredict_poisoned (c : Channel) (d : Int) (s : State) :
    (dcPredict c d s).poisoned = s.poisoned := rfl
@[simp] theorem dcPredict_bpix (c : Channel) (d : Int) (s : State) : (dcPredict c d s).bpix = s.bpix := rfl
@[simp] theorem dcPredict_tile (c : Channel) (d : Int) (s : State) : (dcPredict c d s).tile = s.tile := rfl
@[simp] theorem dcPredict_frame (c : Channel) (d : Int) (s : State) : (dcPredict c d s).frame = s.frame := rfl
@[simp] theorem dcPredict_pending (c : Channel) (d : Int) (s : State) : (dcPredict c d s).pending = s.pending := rfl
@[simp] theorem dcPredict_mem (c : Channel) (d : Int) (s : State) : (dcPredict c d s).mem = s.mem := rfl
@[simp] theorem dcPredict_host (c : Channel) (d : Int) (s : State) : (dcPredict c d s).host = s.host := rfl
@[simp] theorem dcPredict_readData (c : Channel) (d : Int) (s : State) :
    (dcPredict c d s).readData = s.readData := rfl
@[simp] theorem dcPredict_out (c : Channel) (d : Int) (s : State) : (dcPredict c d s).out = s.out := rfl
@[simp] theorem dcPredict_draws (c : Channel) (d : Int) (s : State) : (dcPredict c d s).draws = s.draws := rfl

/-! `reconstructStep`. -/

@[simp] theorem reconstructStep_cfg (s : State) : (reconstructStep s).cfg = s.cfg := rfl
@[simp] theorem reconstructStep_ctrl (s : State) : (reconstructStep s).ctrl = s.ctrl := rfl
@[simp] theorem reconstructStep_status (s : State) : (reconstructStep s).status = s.status := rfl
@[simp] theorem reconstructStep_inLen (s : State) : (reconstructStep s).inLen = s.inLen := rfl
@[simp] theorem reconstructStep_outCount (s : State) : (reconstructStep s).outCount = s.outCount := rfl
@[simp] theorem reconstructStep_segCount (s : State) : (reconstructStep s).segCount = s.segCount := rfl
@[simp] theorem reconstructStep_oorCount (s : State) : (reconstructStep s).oorCount = s.oorCount := rfl
@[simp] theorem reconstructStep_overrunCount (s : State) : (reconstructStep s).overrunCount = s.overrunCount := rfl
@[simp] theorem reconstructStep_segcapCount (s : State) : (reconstructStep s).segcapCount = s.segcapCount := rfl
@[simp] theorem reconstructStep_endPos (s : State) : (reconstructStep s).endPos = s.endPos := rfl
@[simp] theorem reconstructStep_endInfo (s : State) : (reconstructStep s).endInfo = s.endInfo := rfl
@[simp] theorem reconstructStep_phase (s : State) : (reconstructStep s).phase = s.phase := rfl
@[simp] theorem reconstructStep_stage (s : State) :
    (reconstructStep s).stage = if s.blk < 5 then .dcItem else .mergePlace := rfl
@[simp] theorem reconstructStep_cur (s : State) : (reconstructStep s).cur = s.cur := rfl
@[simp] theorem reconstructStep_hdr (s : State) : (reconstructStep s).hdr = s.hdr := rfl
@[simp] theorem reconstructStep_cursor (s : State) : (reconstructStep s).cursor = s.cursor := rfl
@[simp] theorem reconstructStep_pred (s : State) : (reconstructStep s).pred = s.pred := rfl
@[simp] theorem reconstructStep_blk (s : State) :
    (reconstructStep s).blk = if s.blk < 5 then s.blk + 1 else s.blk := rfl
@[simp] theorem reconstructStep_mb (s : State) : (reconstructStep s).mb = s.mb := rfl
@[simp] theorem reconstructStep_k (s : State) : (reconstructStep s).k = s.k := rfl
@[simp] theorem reconstructStep_level (s : State) : (reconstructStep s).level = s.level := rfl
@[simp] theorem reconstructStep_qtag (s : State) : (reconstructStep s).qtag = s.qtag := rfl
@[simp] theorem reconstructStep_entryCount (s : State) : (reconstructStep s).entryCount = s.entryCount := rfl
@[simp] theorem reconstructStep_poisoned (s : State) : (reconstructStep s).poisoned = s.poisoned := rfl
@[simp] theorem reconstructStep_bpix (s : State) :
    (reconstructStep s).bpix = s.bpix.set s.role (if s.poisoned then drawBlock s.channel s.draws else blockSamples s.cfg s.channel s.qtag s.level) := rfl
@[simp] theorem reconstructStep_tile (s : State) : (reconstructStep s).tile = s.tile := rfl
@[simp] theorem reconstructStep_frame (s : State) : (reconstructStep s).frame = s.frame := rfl
@[simp] theorem reconstructStep_pending (s : State) : (reconstructStep s).pending = s.pending := rfl
@[simp] theorem reconstructStep_mem (s : State) : (reconstructStep s).mem = s.mem := rfl
@[simp] theorem reconstructStep_host (s : State) : (reconstructStep s).host = s.host := rfl
@[simp] theorem reconstructStep_readData (s : State) : (reconstructStep s).readData = s.readData := rfl
@[simp] theorem reconstructStep_out (s : State) : (reconstructStep s).out = s.out := rfl
@[simp] theorem reconstructStep_draws (s : State) :
    (reconstructStep s).draws = if s.poisoned then s.draws + 64 else s.draws := rfl

/-! `mergePlaceStep`. -/

@[simp] theorem mergePlaceStep_cfg (s : State) : (mergePlaceStep s).cfg = s.cfg := rfl
@[simp] theorem mergePlaceStep_ctrl (s : State) : (mergePlaceStep s).ctrl = s.ctrl := rfl
@[simp] theorem mergePlaceStep_status (s : State) : (mergePlaceStep s).status = s.status := rfl
@[simp] theorem mergePlaceStep_inLen (s : State) : (mergePlaceStep s).inLen = s.inLen := rfl
@[simp] theorem mergePlaceStep_outCount (s : State) : (mergePlaceStep s).outCount = s.outCount := rfl
@[simp] theorem mergePlaceStep_segCount (s : State) : (mergePlaceStep s).segCount = s.segCount := rfl
@[simp] theorem mergePlaceStep_oorCount (s : State) : (mergePlaceStep s).oorCount = s.oorCount := rfl
@[simp] theorem mergePlaceStep_overrunCount (s : State) : (mergePlaceStep s).overrunCount = s.overrunCount := rfl
@[simp] theorem mergePlaceStep_segcapCount (s : State) : (mergePlaceStep s).segcapCount = s.segcapCount := rfl
@[simp] theorem mergePlaceStep_endPos (s : State) : (mergePlaceStep s).endPos = s.endPos := rfl
@[simp] theorem mergePlaceStep_endInfo (s : State) : (mergePlaceStep s).endInfo = s.endInfo := rfl
@[simp] theorem mergePlaceStep_phase (s : State) : (mergePlaceStep s).phase = s.phase := rfl
@[simp] theorem mergePlaceStep_stage (s : State) :
    (mergePlaceStep s).stage = if s.mb + 1 < s.cfg.mbCount then .dcItem else .emitFrame := rfl
@[simp] theorem mergePlaceStep_cur (s : State) : (mergePlaceStep s).cur = s.cur := rfl
@[simp] theorem mergePlaceStep_hdr (s : State) : (mergePlaceStep s).hdr = s.hdr := rfl
@[simp] theorem mergePlaceStep_cursor (s : State) : (mergePlaceStep s).cursor = s.cursor := rfl
@[simp] theorem mergePlaceStep_pred (s : State) : (mergePlaceStep s).pred = s.pred := rfl
@[simp] theorem mergePlaceStep_blk (s : State) :
    (mergePlaceStep s).blk = if s.mb + 1 < s.cfg.mbCount then 0 else s.blk := rfl
@[simp] theorem mergePlaceStep_mb (s : State) :
    (mergePlaceStep s).mb = if s.mb + 1 < s.cfg.mbCount then s.mb + 1 else s.mb := rfl
@[simp] theorem mergePlaceStep_k (s : State) : (mergePlaceStep s).k = s.k := rfl
@[simp] theorem mergePlaceStep_level (s : State) : (mergePlaceStep s).level = s.level := rfl
@[simp] theorem mergePlaceStep_qtag (s : State) : (mergePlaceStep s).qtag = s.qtag := rfl
@[simp] theorem mergePlaceStep_entryCount (s : State) : (mergePlaceStep s).entryCount = s.entryCount := rfl
@[simp] theorem mergePlaceStep_poisoned (s : State) : (mergePlaceStep s).poisoned = s.poisoned := rfl
@[simp] theorem mergePlaceStep_bpix (s : State) : (mergePlaceStep s).bpix = s.bpix := rfl
@[simp] theorem mergePlaceStep_tile (s : State) : (mergePlaceStep s).tile = mergeTile s.cfg s.bpix := rfl
@[simp] theorem mergePlaceStep_frame (s : State) :
    (mergePlaceStep s).frame = placeTile s.cfg s.mb (mergeTile s.cfg s.bpix) s.frame := rfl
@[simp] theorem mergePlaceStep_pending (s : State) : (mergePlaceStep s).pending = s.pending := rfl
@[simp] theorem mergePlaceStep_mem (s : State) : (mergePlaceStep s).mem = s.mem := rfl
@[simp] theorem mergePlaceStep_host (s : State) : (mergePlaceStep s).host = s.host := rfl
@[simp] theorem mergePlaceStep_readData (s : State) : (mergePlaceStep s).readData = s.readData := rfl
@[simp] theorem mergePlaceStep_out (s : State) : (mergePlaceStep s).out = s.out := rfl
@[simp] theorem mergePlaceStep_draws (s : State) : (mergePlaceStep s).draws = s.draws := rfl

/-! `emitFrameStep`. -/

@[simp] theorem emitFrameStep_cfg (s : State) : (emitFrameStep s).cfg = s.cfg := rfl
@[simp] theorem emitFrameStep_ctrl (s : State) : (emitFrameStep s).ctrl = s.ctrl := rfl
@[simp] theorem emitFrameStep_status (s : State) : (emitFrameStep s).status = { s.status with hold := true } := rfl
@[simp] theorem emitFrameStep_inLen (s : State) : (emitFrameStep s).inLen = s.inLen := rfl
@[simp] theorem emitFrameStep_outCount (s : State) : (emitFrameStep s).outCount = satInc s.outCount := rfl
@[simp] theorem emitFrameStep_segCount (s : State) : (emitFrameStep s).segCount = s.segCount := rfl
@[simp] theorem emitFrameStep_oorCount (s : State) : (emitFrameStep s).oorCount = s.oorCount := rfl
@[simp] theorem emitFrameStep_overrunCount (s : State) : (emitFrameStep s).overrunCount = s.overrunCount := rfl
@[simp] theorem emitFrameStep_segcapCount (s : State) : (emitFrameStep s).segcapCount = s.segcapCount := rfl
@[simp] theorem emitFrameStep_endPos (s : State) : (emitFrameStep s).endPos = s.endPos := rfl
@[simp] theorem emitFrameStep_endInfo (s : State) : (emitFrameStep s).endInfo = s.endInfo := rfl
@[simp] theorem emitFrameStep_phase (s : State) : (emitFrameStep s).phase = s.phase := rfl
@[simp] theorem emitFrameStep_stage (s : State) : (emitFrameStep s).stage = .toProbe := rfl
@[simp] theorem emitFrameStep_cur (s : State) : (emitFrameStep s).cur = s.cur := rfl
@[simp] theorem emitFrameStep_hdr (s : State) : (emitFrameStep s).hdr = s.hdr := rfl
@[simp] theorem emitFrameStep_cursor (s : State) : (emitFrameStep s).cursor = s.cursor := rfl
@[simp] theorem emitFrameStep_pred (s : State) : (emitFrameStep s).pred = s.pred := rfl
@[simp] theorem emitFrameStep_blk (s : State) : (emitFrameStep s).blk = s.blk := rfl
@[simp] theorem emitFrameStep_mb (s : State) : (emitFrameStep s).mb = s.mb := rfl
@[simp] theorem emitFrameStep_k (s : State) : (emitFrameStep s).k = s.k := rfl
@[simp] theorem emitFrameStep_level (s : State) : (emitFrameStep s).level = s.level := rfl
@[simp] theorem emitFrameStep_qtag (s : State) : (emitFrameStep s).qtag = s.qtag := rfl
@[simp] theorem emitFrameStep_entryCount (s : State) : (emitFrameStep s).entryCount = s.entryCount := rfl
@[simp] theorem emitFrameStep_poisoned (s : State) : (emitFrameStep s).poisoned = s.poisoned := rfl
@[simp] theorem emitFrameStep_bpix (s : State) : (emitFrameStep s).bpix = s.bpix := rfl
@[simp] theorem emitFrameStep_tile (s : State) : (emitFrameStep s).tile = s.tile := rfl
@[simp] theorem emitFrameStep_frame (s : State) : (emitFrameStep s).frame = s.frame := rfl
@[simp] theorem emitFrameStep_pending (s : State) :
    (emitFrameStep s).pending = some (.image s.outCount (s.frame.take (s.cfg.frameW * s.cfg.frameH)) s.cfg.frameW s.cfg.frameH 16) := rfl
@[simp] theorem emitFrameStep_mem (s : State) : (emitFrameStep s).mem = s.mem := rfl
@[simp] theorem emitFrameStep_host (s : State) : (emitFrameStep s).host = s.host := rfl
@[simp] theorem emitFrameStep_readData (s : State) : (emitFrameStep s).readData = s.readData := rfl
@[simp] theorem emitFrameStep_out (s : State) : (emitFrameStep s).out = s.out := rfl
@[simp] theorem emitFrameStep_draws (s : State) : (emitFrameStep s).draws = s.draws := rfl

/-! `resetState`: the reset value, or what the outside keeps. -/

@[simp] theorem resetState_cfg (s : State) : (resetState s).cfg = s.cfg := rfl
@[simp] theorem resetState_ctrl (s : State) : (resetState s).ctrl = State.reset.ctrl := rfl
@[simp] theorem resetState_status (s : State) : (resetState s).status = State.reset.status := rfl
@[simp] theorem resetState_inLen (s : State) : (resetState s).inLen = State.reset.inLen := rfl
@[simp] theorem resetState_outCount (s : State) : (resetState s).outCount = State.reset.outCount := rfl
@[simp] theorem resetState_segCount (s : State) : (resetState s).segCount = State.reset.segCount := rfl
@[simp] theorem resetState_oorCount (s : State) : (resetState s).oorCount = State.reset.oorCount := rfl
@[simp] theorem resetState_overrunCount (s : State) : (resetState s).overrunCount = State.reset.overrunCount := rfl
@[simp] theorem resetState_segcapCount (s : State) : (resetState s).segcapCount = State.reset.segcapCount := rfl
@[simp] theorem resetState_endPos (s : State) : (resetState s).endPos = State.reset.endPos := rfl
@[simp] theorem resetState_endInfo (s : State) : (resetState s).endInfo = State.reset.endInfo := rfl
@[simp] theorem resetState_phase (s : State) : (resetState s).phase = State.reset.phase := rfl
@[simp] theorem resetState_stage (s : State) : (resetState s).stage = State.reset.stage := rfl
@[simp] theorem resetState_cur (s : State) : (resetState s).cur = State.reset.cur := rfl
@[simp] theorem resetState_hdr (s : State) : (resetState s).hdr = State.reset.hdr := rfl
@[simp] theorem resetState_cursor (s : State) : (resetState s).cursor = State.reset.cursor := rfl
@[simp] theorem resetState_pred (s : State) : (resetState s).pred = State.reset.pred := rfl
@[simp] theorem resetState_blk (s : State) : (resetState s).blk = State.reset.blk := rfl
@[simp] theorem resetState_mb (s : State) : (resetState s).mb = State.reset.mb := rfl
@[simp] theorem resetState_k (s : State) : (resetState s).k = State.reset.k := rfl
@[simp] theorem resetState_level (s : State) : (resetState s).level = State.reset.level := rfl
@[simp] theorem resetState_qtag (s : State) : (resetState s).qtag = State.reset.qtag := rfl
@[simp] theorem resetState_entryCount (s : State) : (resetState s).entryCount = State.reset.entryCount := rfl
@[simp] theorem resetState_poisoned (s : State) : (resetState s).poisoned = State.reset.poisoned := rfl
@[simp] theorem resetState_bpix (s : State) : (resetState s).bpix = State.reset.bpix := rfl
@[simp] theorem resetState_tile (s : State) : (resetState s).tile = State.reset.tile := rfl
@[simp] theorem resetState_frame (s : State) : (resetState s).frame = State.reset.frame := rfl
@[simp] theorem resetState_pending (s : State) : (resetState s).pending = State.reset.pending := rfl
@[simp] theorem resetState_mem (s : State) : (resetState s).mem = s.mem := rfl
@[simp] theorem resetState_host (s : State) : (resetState s).host = s.host := rfl
@[simp] theorem resetState_readData (s : State) : (resetState s).readData = s.readData := rfl
@[simp] theorem resetState_out (s : State) : (resetState s).out = s.out := rfl
@[simp] theorem resetState_draws (s : State) : (resetState s).draws = s.draws := rfl

/-! `startCheck`: what it leaves alone. -/

@[simp] theorem startCheck_cfg (s : State) : (startCheck s).cfg = s.cfg := by
  unfold startCheck; split <;> [rfl; split <;> rfl]
@[simp] theorem startCheck_ctrl (s : State) : (startCheck s).ctrl = s.ctrl := by
  unfold startCheck; split <;> [rfl; split <;> rfl]
@[simp] theorem startCheck_inLen (s : State) : (startCheck s).inLen = s.inLen := by
  unfold startCheck; split <;> [rfl; split <;> rfl]
@[simp] theorem startCheck_outCount (s : State) : (startCheck s).outCount = s.outCount := by
  unfold startCheck; split <;> [rfl; split <;> rfl]
@[simp] theorem startCheck_segCount (s : State) : (startCheck s).segCount = s.segCount := by
  unfold startCheck; split <;> [rfl; split <;> rfl]
@[simp] theorem startCheck_oorCount (s : State) : (startCheck s).oorCount = s.oorCount := by
  unfold startCheck; split <;> [rfl; split <;> rfl]
@[simp] theorem startCheck_overrunCount (s : State) : (startCheck s).overrunCount = s.overrunCount := by
  unfold startCheck; split <;> [rfl; split <;> rfl]
@[simp] theorem startCheck_segcapCount (s : State) : (startCheck s).segcapCount = s.segcapCount := by
  unfold startCheck; split <;> [rfl; split <;> rfl]
@[simp] theorem startCheck_endInfo (s : State) : (startCheck s).endInfo = s.endInfo := by
  unfold startCheck; split <;> [rfl; split <;> rfl]
@[simp] theorem startCheck_cur (s : State) : (startCheck s).cur = s.cur := by
  unfold startCheck; split <;> [rfl; split <;> rfl]
@[simp] theorem startCheck_hdr (s : State) : (startCheck s).hdr = s.hdr := by
  unfold startCheck; split <;> [rfl; split <;> rfl]
@[simp] theorem startCheck_cursor (s : State) : (startCheck s).cursor = s.cursor := by
  unfold startCheck; split <;> [rfl; split <;> rfl]
@[simp] theorem startCheck_pred (s : State) : (startCheck s).pred = s.pred := by
  unfold startCheck; split <;> [rfl; split <;> rfl]
@[simp] theorem startCheck_blk (s : State) : (startCheck s).blk = s.blk := by
  unfold startCheck; split <;> [rfl; split <;> rfl]
@[simp] theorem startCheck_mb (s : State) : (startCheck s).mb = s.mb := by
  unfold startCheck; split <;> [rfl; split <;> rfl]
@[simp] theorem startCheck_k (s : State) : (startCheck s).k = s.k := by
  unfold startCheck; split <;> [rfl; split <;> rfl]
@[simp] theorem startCheck_level (s : State) : (startCheck s).level = s.level := by
  unfold startCheck; split <;> [rfl; split <;> rfl]
@[simp] theorem startCheck_qtag (s : State) : (startCheck s).qtag = s.qtag := by
  unfold startCheck; split <;> [rfl; split <;> rfl]
@[simp] theorem startCheck_entryCount (s : State) : (startCheck s).entryCount = s.entryCount := by
  unfold startCheck; split <;> [rfl; split <;> rfl]
@[simp] theorem startCheck_poisoned (s : State) : (startCheck s).poisoned = s.poisoned := by
  unfold startCheck; split <;> [rfl; split <;> rfl]
@[simp] theorem startCheck_bpix (s : State) : (startCheck s).bpix = s.bpix := by
  unfold startCheck; split <;> [rfl; split <;> rfl]
@[simp] theorem startCheck_tile (s : State) : (startCheck s).tile = s.tile := by
  unfold startCheck; split <;> [rfl; split <;> rfl]
@[simp] theorem startCheck_pending (s : State) : (startCheck s).pending = s.pending := by
  unfold startCheck; split <;> [rfl; split <;> rfl]
@[simp] theorem startCheck_mem (s : State) : (startCheck s).mem = s.mem := by
  unfold startCheck; split <;> [rfl; split <;> rfl]
@[simp] theorem startCheck_host (s : State) : (startCheck s).host = s.host := by
  unfold startCheck; split <;> [rfl; split <;> rfl]
@[simp] theorem startCheck_readData (s : State) : (startCheck s).readData = s.readData := by
  unfold startCheck; split <;> [rfl; split <;> rfl]
@[simp] theorem startCheck_out (s : State) : (startCheck s).out = s.out := by
  unfold startCheck; split <;> [rfl; split <;> rfl]
@[simp] theorem startCheck_draws (s : State) : (startCheck s).draws = s.draws := by
  unfold startCheck; split <;> [rfl; split <;> rfl]

/-! `consumeItem`: it touches the cursor and OVERRUN_COUNT alone. -/

theorem consumeItem_eq (ws : List Nat) (s : State) :
    consumeItem ws s = { s with
      cursor := ws.foldl (fun c n => c.advance s.mem n) s.cursor, overrunCount := (consumeItem ws s).overrunCount } := by
  have h : ∀ (ws : List Nat) (u : State), ws.foldl (fun u n => consume n u) u = { u with
      cursor := ws.foldl (fun c n => c.advance u.mem n) u.cursor,
      overrunCount := (ws.foldl (fun u n => consume n u) u).overrunCount } := by
    intro ws
    induction ws with
    | nil => intro u; rfl
    | cons n ws ih => intro u; rw [List.foldl_cons, ih (consume n u)]; rfl
  unfold consumeItem
  simp only
  split <;> rw [h ws s]

@[simp] theorem consumeItem_cursor (ws : List Nat) (s : State) :
    (consumeItem ws s).cursor = ws.foldl (fun c n => c.advance s.mem n) s.cursor := by rw [consumeItem_eq]

theorem consumeItem_touches (ws : List Nat) (s : State) :
    consumeItem ws s = { s with
      cursor := (consumeItem ws s).cursor, overrunCount := (consumeItem ws s).overrunCount } := by
  conv_lhs => rw [consumeItem_eq, ← consumeItem_cursor]

@[simp] theorem consumeItem_cfg (ws : List Nat) (s : State) : (consumeItem ws s).cfg = s.cfg := by
  rw [consumeItem_eq]
@[simp] theorem consumeItem_ctrl (ws : List Nat) (s : State) : (consumeItem ws s).ctrl = s.ctrl := by
  rw [consumeItem_eq]
@[simp] theorem consumeItem_status (ws : List Nat) (s : State) : (consumeItem ws s).status = s.status := by
  rw [consumeItem_eq]
@[simp] theorem consumeItem_inLen (ws : List Nat) (s : State) : (consumeItem ws s).inLen = s.inLen := by
  rw [consumeItem_eq]
@[simp] theorem consumeItem_outCount (ws : List Nat) (s : State) : (consumeItem ws s).outCount = s.outCount := by
  rw [consumeItem_eq]
@[simp] theorem consumeItem_segCount (ws : List Nat) (s : State) : (consumeItem ws s).segCount = s.segCount := by
  rw [consumeItem_eq]
@[simp] theorem consumeItem_oorCount (ws : List Nat) (s : State) : (consumeItem ws s).oorCount = s.oorCount := by
  rw [consumeItem_eq]
@[simp] theorem consumeItem_segcapCount (ws : List Nat) (s : State) : (consumeItem ws s).segcapCount = s.segcapCount := by
  rw [consumeItem_eq]
@[simp] theorem consumeItem_endPos (ws : List Nat) (s : State) : (consumeItem ws s).endPos = s.endPos := by
  rw [consumeItem_eq]
@[simp] theorem consumeItem_endInfo (ws : List Nat) (s : State) : (consumeItem ws s).endInfo = s.endInfo := by
  rw [consumeItem_eq]
@[simp] theorem consumeItem_phase (ws : List Nat) (s : State) : (consumeItem ws s).phase = s.phase := by
  rw [consumeItem_eq]
@[simp] theorem consumeItem_stage (ws : List Nat) (s : State) : (consumeItem ws s).stage = s.stage := by
  rw [consumeItem_eq]
@[simp] theorem consumeItem_cur (ws : List Nat) (s : State) : (consumeItem ws s).cur = s.cur := by
  rw [consumeItem_eq]
@[simp] theorem consumeItem_hdr (ws : List Nat) (s : State) : (consumeItem ws s).hdr = s.hdr := by
  rw [consumeItem_eq]
@[simp] theorem consumeItem_pred (ws : List Nat) (s : State) : (consumeItem ws s).pred = s.pred := by
  rw [consumeItem_eq]
@[simp] theorem consumeItem_blk (ws : List Nat) (s : State) : (consumeItem ws s).blk = s.blk := by
  rw [consumeItem_eq]
@[simp] theorem consumeItem_mb (ws : List Nat) (s : State) : (consumeItem ws s).mb = s.mb := by
  rw [consumeItem_eq]
@[simp] theorem consumeItem_k (ws : List Nat) (s : State) : (consumeItem ws s).k = s.k := by
  rw [consumeItem_eq]
@[simp] theorem consumeItem_level (ws : List Nat) (s : State) : (consumeItem ws s).level = s.level := by
  rw [consumeItem_eq]
@[simp] theorem consumeItem_qtag (ws : List Nat) (s : State) : (consumeItem ws s).qtag = s.qtag := by
  rw [consumeItem_eq]
@[simp] theorem consumeItem_entryCount (ws : List Nat) (s : State) : (consumeItem ws s).entryCount = s.entryCount := by
  rw [consumeItem_eq]
@[simp] theorem consumeItem_poisoned (ws : List Nat) (s : State) : (consumeItem ws s).poisoned = s.poisoned := by
  rw [consumeItem_eq]
@[simp] theorem consumeItem_bpix (ws : List Nat) (s : State) : (consumeItem ws s).bpix = s.bpix := by
  rw [consumeItem_eq]
@[simp] theorem consumeItem_tile (ws : List Nat) (s : State) : (consumeItem ws s).tile = s.tile := by
  rw [consumeItem_eq]
@[simp] theorem consumeItem_frame (ws : List Nat) (s : State) : (consumeItem ws s).frame = s.frame := by
  rw [consumeItem_eq]
@[simp] theorem consumeItem_pending (ws : List Nat) (s : State) : (consumeItem ws s).pending = s.pending := by
  rw [consumeItem_eq]
@[simp] theorem consumeItem_mem (ws : List Nat) (s : State) : (consumeItem ws s).mem = s.mem := by
  rw [consumeItem_eq]
@[simp] theorem consumeItem_host (ws : List Nat) (s : State) : (consumeItem ws s).host = s.host := by
  rw [consumeItem_eq]
@[simp] theorem consumeItem_readData (ws : List Nat) (s : State) : (consumeItem ws s).readData = s.readData := by
  rw [consumeItem_eq]
@[simp] theorem consumeItem_out (ws : List Nat) (s : State) : (consumeItem ws s).out = s.out := by
  rw [consumeItem_eq]
@[simp] theorem consumeItem_draws (ws : List Nat) (s : State) : (consumeItem ws s).draws = s.draws := by
  rw [consumeItem_eq]

/-! `dcFlatItem`. -/

@[simp] theorem dcFlatItem_cfg (v : Int) (s : State) :
    (dcFlatItem v s).cfg =
      s.cfg := by
  simp [dcFlatItem]
@[simp] theorem dcFlatItem_ctrl (v : Int) (s : State) :
    (dcFlatItem v s).ctrl =
      s.ctrl := by
  simp [dcFlatItem]
@[simp] theorem dcFlatItem_status (v : Int) (s : State) :
    (dcFlatItem v s).status =
      s.status := by
  simp [dcFlatItem]
@[simp] theorem dcFlatItem_inLen (v : Int) (s : State) :
    (dcFlatItem v s).inLen =
      s.inLen := by
  simp [dcFlatItem]
@[simp] theorem dcFlatItem_outCount (v : Int) (s : State) :
    (dcFlatItem v s).outCount =
      s.outCount := by
  simp [dcFlatItem]
@[simp] theorem dcFlatItem_segCount (v : Int) (s : State) :
    (dcFlatItem v s).segCount =
      s.segCount := by
  simp [dcFlatItem]
@[simp] theorem dcFlatItem_oorCount (v : Int) (s : State) :
    (dcFlatItem v s).oorCount =
      s.oorCount := by
  simp [dcFlatItem]
@[simp] theorem dcFlatItem_overrunCount (v : Int) (s : State) :
    (dcFlatItem v s).overrunCount =
      (consumeItem ([10]) (blockStart s)).overrunCount := rfl
@[simp] theorem dcFlatItem_segcapCount (v : Int) (s : State) :
    (dcFlatItem v s).segcapCount =
      if pastCapacity s.cfg (s.entryCount + 1) then satInc s.segcapCount else s.segcapCount := by
  simp [dcFlatItem]
@[simp] theorem dcFlatItem_endPos (v : Int) (s : State) :
    (dcFlatItem v s).endPos =
      s.endPos := by
  simp [dcFlatItem]
@[simp] theorem dcFlatItem_endInfo (v : Int) (s : State) :
    (dcFlatItem v s).endInfo =
      s.endInfo := by
  simp [dcFlatItem]
@[simp] theorem dcFlatItem_phase (v : Int) (s : State) :
    (dcFlatItem v s).phase =
      s.phase := by
  simp [dcFlatItem]
@[simp] theorem dcFlatItem_stage (v : Int) (s : State) :
    (dcFlatItem v s).stage =
      .acItem := by
  simp [dcFlatItem]
@[simp] theorem dcFlatItem_cur (v : Int) (s : State) :
    (dcFlatItem v s).cur =
      s.cur := by
  simp [dcFlatItem]
@[simp] theorem dcFlatItem_hdr (v : Int) (s : State) :
    (dcFlatItem v s).hdr =
      s.hdr := by
  simp [dcFlatItem]
@[simp] theorem dcFlatItem_cursor (v : Int) (s : State) :
    (dcFlatItem v s).cursor =
      ([10]).foldl (fun c n => c.advance s.mem n) s.cursor := by
  simp [dcFlatItem]
@[simp] theorem dcFlatItem_pred (v : Int) (s : State) :
    (dcFlatItem v s).pred =
      (blockStart s).pred := by
  simp [dcFlatItem]
@[simp] theorem dcFlatItem_blk (v : Int) (s : State) :
    (dcFlatItem v s).blk =
      s.blk := by
  simp [dcFlatItem]
@[simp] theorem dcFlatItem_mb (v : Int) (s : State) :
    (dcFlatItem v s).mb =
      s.mb := by
  simp [dcFlatItem]
@[simp] theorem dcFlatItem_k (v : Int) (s : State) :
    (dcFlatItem v s).k =
      0 := by
  simp [dcFlatItem]
@[simp] theorem dcFlatItem_level (v : Int) (s : State) :
    (dcFlatItem v s).level =
      (List.replicate 64 0).set 0 v := by
  simp [dcFlatItem]
@[simp] theorem dcFlatItem_qtag (v : Int) (s : State) :
    (dcFlatItem v s).qtag =
      s.hdr.quant := by
  simp [dcFlatItem]
@[simp] theorem dcFlatItem_entryCount (v : Int) (s : State) :
    (dcFlatItem v s).entryCount =
      s.entryCount + 1 := by
  simp [dcFlatItem]
@[simp] theorem dcFlatItem_poisoned (v : Int) (s : State) :
    (dcFlatItem v s).poisoned =
      false := by
  simp [dcFlatItem]
@[simp] theorem dcFlatItem_bpix (v : Int) (s : State) :
    (dcFlatItem v s).bpix =
      s.bpix := by
  simp [dcFlatItem]
@[simp] theorem dcFlatItem_tile (v : Int) (s : State) :
    (dcFlatItem v s).tile =
      s.tile := by
  simp [dcFlatItem]
@[simp] theorem dcFlatItem_frame (v : Int) (s : State) :
    (dcFlatItem v s).frame =
      s.frame := by
  simp [dcFlatItem]
@[simp] theorem dcFlatItem_pending (v : Int) (s : State) :
    (dcFlatItem v s).pending =
      s.pending := by
  simp [dcFlatItem]
@[simp] theorem dcFlatItem_mem (v : Int) (s : State) :
    (dcFlatItem v s).mem =
      s.mem := by
  simp [dcFlatItem]
@[simp] theorem dcFlatItem_host (v : Int) (s : State) :
    (dcFlatItem v s).host =
      s.host := by
  simp [dcFlatItem]
@[simp] theorem dcFlatItem_readData (v : Int) (s : State) :
    (dcFlatItem v s).readData =
      s.readData := by
  simp [dcFlatItem]
@[simp] theorem dcFlatItem_out (v : Int) (s : State) :
    (dcFlatItem v s).out =
      s.out := by
  simp [dcFlatItem]
@[simp] theorem dcFlatItem_draws (v : Int) (s : State) :
    (dcFlatItem v s).draws =
      s.draws := by
  simp [dcFlatItem]

/-! `dcPredItem`. -/

@[simp] theorem dcPredItem_cfg (c : Channel) (len size b : Nat) (s : State) :
    (dcPredItem c len size b s).cfg =
      s.cfg := by
  simp [dcPredItem]
@[simp] theorem dcPredItem_ctrl (c : Channel) (len size b : Nat) (s : State) :
    (dcPredItem c len size b s).ctrl =
      s.ctrl := by
  simp [dcPredItem]
@[simp] theorem dcPredItem_status (c : Channel) (len size b : Nat) (s : State) :
    (dcPredItem c len size b s).status =
      s.status := by
  simp [dcPredItem]
@[simp] theorem dcPredItem_inLen (c : Channel) (len size b : Nat) (s : State) :
    (dcPredItem c len size b s).inLen =
      s.inLen := by
  simp [dcPredItem]
@[simp] theorem dcPredItem_outCount (c : Channel) (len size b : Nat) (s : State) :
    (dcPredItem c len size b s).outCount =
      s.outCount := by
  simp [dcPredItem]
@[simp] theorem dcPredItem_segCount (c : Channel) (len size b : Nat) (s : State) :
    (dcPredItem c len size b s).segCount =
      s.segCount := by
  simp [dcPredItem]
@[simp] theorem dcPredItem_oorCount (c : Channel) (len size b : Nat) (s : State) :
    (dcPredItem c len size b s).oorCount =
      s.oorCount := by
  simp [dcPredItem]
@[simp] theorem dcPredItem_overrunCount (c : Channel) (len size b : Nat) (s : State) :
    (dcPredItem c len size b s).overrunCount =
      (consumeItem (if size = 0 then [len] else [len, size]) (blockStart s)).overrunCount := rfl
@[simp] theorem dcPredItem_segcapCount (c : Channel) (len size b : Nat) (s : State) :
    (dcPredItem c len size b s).segcapCount =
      if pastCapacity s.cfg (s.entryCount + 1) then satInc s.segcapCount else s.segcapCount := by
  simp [dcPredItem]
@[simp] theorem dcPredItem_endPos (c : Channel) (len size b : Nat) (s : State) :
    (dcPredItem c len size b s).endPos =
      s.endPos := by
  simp [dcPredItem]
@[simp] theorem dcPredItem_endInfo (c : Channel) (len size b : Nat) (s : State) :
    (dcPredItem c len size b s).endInfo =
      s.endInfo := by
  simp [dcPredItem]
@[simp] theorem dcPredItem_phase (c : Channel) (len size b : Nat) (s : State) :
    (dcPredItem c len size b s).phase =
      s.phase := by
  simp [dcPredItem]
@[simp] theorem dcPredItem_stage (c : Channel) (len size b : Nat) (s : State) :
    (dcPredItem c len size b s).stage =
      .acItem := by
  simp [dcPredItem]
@[simp] theorem dcPredItem_cur (c : Channel) (len size b : Nat) (s : State) :
    (dcPredItem c len size b s).cur =
      s.cur := by
  simp [dcPredItem]
@[simp] theorem dcPredItem_hdr (c : Channel) (len size b : Nat) (s : State) :
    (dcPredItem c len size b s).hdr =
      s.hdr := by
  simp [dcPredItem]
@[simp] theorem dcPredItem_cursor (c : Channel) (len size b : Nat) (s : State) :
    (dcPredItem c len size b s).cursor =
      (if size = 0 then [len] else [len, size]).foldl (fun c n => c.advance s.mem n) s.cursor := by
  simp [dcPredItem]
@[simp] theorem dcPredItem_pred (c : Channel) (len size b : Nat) (s : State) :
    (dcPredItem c len size b s).pred =
      (blockStart s).pred.set c ((blockStart s).pred.get c + 4 * dcDelta size b) := by
  simp [dcPredItem]
@[simp] theorem dcPredItem_blk (c : Channel) (len size b : Nat) (s : State) :
    (dcPredItem c len size b s).blk =
      s.blk := by
  simp [dcPredItem]
@[simp] theorem dcPredItem_mb (c : Channel) (len size b : Nat) (s : State) :
    (dcPredItem c len size b s).mb =
      s.mb := by
  simp [dcPredItem]
@[simp] theorem dcPredItem_k (c : Channel) (len size b : Nat) (s : State) :
    (dcPredItem c len size b s).k =
      0 := by
  simp [dcPredItem]
@[simp] theorem dcPredItem_level (c : Channel) (len size b : Nat) (s : State) :
    (dcPredItem c len size b s).level =
      (List.replicate 64 0).set 0 ((blockStart s).pred.get c + 4 * dcDelta size b) := by
  simp [dcPredItem]
@[simp] theorem dcPredItem_qtag (c : Channel) (len size b : Nat) (s : State) :
    (dcPredItem c len size b s).qtag =
      s.hdr.quant := by
  simp [dcPredItem]
@[simp] theorem dcPredItem_entryCount (c : Channel) (len size b : Nat) (s : State) :
    (dcPredItem c len size b s).entryCount =
      s.entryCount + 1 := by
  simp [dcPredItem]
@[simp] theorem dcPredItem_poisoned (c : Channel) (len size b : Nat) (s : State) :
    (dcPredItem c len size b s).poisoned =
      false := by
  simp [dcPredItem]
@[simp] theorem dcPredItem_bpix (c : Channel) (len size b : Nat) (s : State) :
    (dcPredItem c len size b s).bpix =
      s.bpix := by
  simp [dcPredItem]
@[simp] theorem dcPredItem_tile (c : Channel) (len size b : Nat) (s : State) :
    (dcPredItem c len size b s).tile =
      s.tile := by
  simp [dcPredItem]
@[simp] theorem dcPredItem_frame (c : Channel) (len size b : Nat) (s : State) :
    (dcPredItem c len size b s).frame =
      s.frame := by
  simp [dcPredItem]
@[simp] theorem dcPredItem_pending (c : Channel) (len size b : Nat) (s : State) :
    (dcPredItem c len size b s).pending =
      s.pending := by
  simp [dcPredItem]
@[simp] theorem dcPredItem_mem (c : Channel) (len size b : Nat) (s : State) :
    (dcPredItem c len size b s).mem =
      s.mem := by
  simp [dcPredItem]
@[simp] theorem dcPredItem_host (c : Channel) (len size b : Nat) (s : State) :
    (dcPredItem c len size b s).host =
      s.host := by
  simp [dcPredItem]
@[simp] theorem dcPredItem_readData (c : Channel) (len size b : Nat) (s : State) :
    (dcPredItem c len size b s).readData =
      s.readData := by
  simp [dcPredItem]
@[simp] theorem dcPredItem_out (c : Channel) (len size b : Nat) (s : State) :
    (dcPredItem c len size b s).out =
      s.out := by
  simp [dcPredItem]
@[simp] theorem dcPredItem_draws (c : Channel) (len size b : Nat) (s : State) :
    (dcPredItem c len size b s).draws =
      s.draws := by
  simp [dcPredItem]

/-! `dcCodeItem`. -/

@[simp] theorem dcCodeItem_cfg (c : Channel) (d : Int) (len : Nat) (s : State) :
    (dcCodeItem c d len s).cfg =
      s.cfg := by
  simp [dcCodeItem]
@[simp] theorem dcCodeItem_ctrl (c : Channel) (d : Int) (len : Nat) (s : State) :
    (dcCodeItem c d len s).ctrl =
      s.ctrl := by
  simp [dcCodeItem]
@[simp] theorem dcCodeItem_status (c : Channel) (d : Int) (len : Nat) (s : State) :
    (dcCodeItem c d len s).status =
      s.status := by
  simp [dcCodeItem]
@[simp] theorem dcCodeItem_inLen (c : Channel) (d : Int) (len : Nat) (s : State) :
    (dcCodeItem c d len s).inLen =
      s.inLen := by
  simp [dcCodeItem]
@[simp] theorem dcCodeItem_outCount (c : Channel) (d : Int) (len : Nat) (s : State) :
    (dcCodeItem c d len s).outCount =
      s.outCount := by
  simp [dcCodeItem]
@[simp] theorem dcCodeItem_segCount (c : Channel) (d : Int) (len : Nat) (s : State) :
    (dcCodeItem c d len s).segCount =
      s.segCount := by
  simp [dcCodeItem]
@[simp] theorem dcCodeItem_oorCount (c : Channel) (d : Int) (len : Nat) (s : State) :
    (dcCodeItem c d len s).oorCount =
      s.oorCount := by
  simp [dcCodeItem]
@[simp] theorem dcCodeItem_overrunCount (c : Channel) (d : Int) (len : Nat) (s : State) :
    (dcCodeItem c d len s).overrunCount =
      (consumeItem (consumePieces len) (blockStart s)).overrunCount := rfl
@[simp] theorem dcCodeItem_segcapCount (c : Channel) (d : Int) (len : Nat) (s : State) :
    (dcCodeItem c d len s).segcapCount =
      if pastCapacity s.cfg (s.entryCount + 1) then satInc s.segcapCount else s.segcapCount := by
  simp [dcCodeItem]
@[simp] theorem dcCodeItem_endPos (c : Channel) (d : Int) (len : Nat) (s : State) :
    (dcCodeItem c d len s).endPos =
      s.endPos := by
  simp [dcCodeItem]
@[simp] theorem dcCodeItem_endInfo (c : Channel) (d : Int) (len : Nat) (s : State) :
    (dcCodeItem c d len s).endInfo =
      s.endInfo := by
  simp [dcCodeItem]
@[simp] theorem dcCodeItem_phase (c : Channel) (d : Int) (len : Nat) (s : State) :
    (dcCodeItem c d len s).phase =
      s.phase := by
  simp [dcCodeItem]
@[simp] theorem dcCodeItem_stage (c : Channel) (d : Int) (len : Nat) (s : State) :
    (dcCodeItem c d len s).stage =
      .acItem := by
  simp [dcCodeItem]
@[simp] theorem dcCodeItem_cur (c : Channel) (d : Int) (len : Nat) (s : State) :
    (dcCodeItem c d len s).cur =
      s.cur := by
  simp [dcCodeItem]
@[simp] theorem dcCodeItem_hdr (c : Channel) (d : Int) (len : Nat) (s : State) :
    (dcCodeItem c d len s).hdr =
      s.hdr := by
  simp [dcCodeItem]
@[simp] theorem dcCodeItem_cursor (c : Channel) (d : Int) (len : Nat) (s : State) :
    (dcCodeItem c d len s).cursor =
      (consumePieces len).foldl (fun c n => c.advance s.mem n) s.cursor := by
  simp [dcCodeItem]
@[simp] theorem dcCodeItem_pred (c : Channel) (d : Int) (len : Nat) (s : State) :
    (dcCodeItem c d len s).pred =
      (blockStart s).pred.set c ((blockStart s).pred.get c + 4 * d) := by
  simp [dcCodeItem]
@[simp] theorem dcCodeItem_blk (c : Channel) (d : Int) (len : Nat) (s : State) :
    (dcCodeItem c d len s).blk =
      s.blk := by
  simp [dcCodeItem]
@[simp] theorem dcCodeItem_mb (c : Channel) (d : Int) (len : Nat) (s : State) :
    (dcCodeItem c d len s).mb =
      s.mb := by
  simp [dcCodeItem]
@[simp] theorem dcCodeItem_k (c : Channel) (d : Int) (len : Nat) (s : State) :
    (dcCodeItem c d len s).k =
      0 := by
  simp [dcCodeItem]
@[simp] theorem dcCodeItem_level (c : Channel) (d : Int) (len : Nat) (s : State) :
    (dcCodeItem c d len s).level =
      (List.replicate 64 0).set 0 ((blockStart s).pred.get c + 4 * d) := by
  simp [dcCodeItem]
@[simp] theorem dcCodeItem_qtag (c : Channel) (d : Int) (len : Nat) (s : State) :
    (dcCodeItem c d len s).qtag =
      s.hdr.quant := by
  simp [dcCodeItem]
@[simp] theorem dcCodeItem_entryCount (c : Channel) (d : Int) (len : Nat) (s : State) :
    (dcCodeItem c d len s).entryCount =
      s.entryCount + 1 := by
  simp [dcCodeItem]
@[simp] theorem dcCodeItem_poisoned (c : Channel) (d : Int) (len : Nat) (s : State) :
    (dcCodeItem c d len s).poisoned =
      false := by
  simp [dcCodeItem]
@[simp] theorem dcCodeItem_bpix (c : Channel) (d : Int) (len : Nat) (s : State) :
    (dcCodeItem c d len s).bpix =
      s.bpix := by
  simp [dcCodeItem]
@[simp] theorem dcCodeItem_tile (c : Channel) (d : Int) (len : Nat) (s : State) :
    (dcCodeItem c d len s).tile =
      s.tile := by
  simp [dcCodeItem]
@[simp] theorem dcCodeItem_frame (c : Channel) (d : Int) (len : Nat) (s : State) :
    (dcCodeItem c d len s).frame =
      s.frame := by
  simp [dcCodeItem]
@[simp] theorem dcCodeItem_pending (c : Channel) (d : Int) (len : Nat) (s : State) :
    (dcCodeItem c d len s).pending =
      s.pending := by
  simp [dcCodeItem]
@[simp] theorem dcCodeItem_mem (c : Channel) (d : Int) (len : Nat) (s : State) :
    (dcCodeItem c d len s).mem =
      s.mem := by
  simp [dcCodeItem]
@[simp] theorem dcCodeItem_host (c : Channel) (d : Int) (len : Nat) (s : State) :
    (dcCodeItem c d len s).host =
      s.host := by
  simp [dcCodeItem]
@[simp] theorem dcCodeItem_readData (c : Channel) (d : Int) (len : Nat) (s : State) :
    (dcCodeItem c d len s).readData =
      s.readData := by
  simp [dcCodeItem]
@[simp] theorem dcCodeItem_out (c : Channel) (d : Int) (len : Nat) (s : State) :
    (dcCodeItem c d len s).out =
      s.out := by
  simp [dcCodeItem]
@[simp] theorem dcCodeItem_draws (c : Channel) (d : Int) (len : Nat) (s : State) :
    (dcCodeItem c d len s).draws =
      s.draws := by
  simp [dcCodeItem]

/-! `acVlcItem`. -/

@[simp] theorem acVlcItem_cfg (len run mag : Nat) (neg : Bool) (s : State) :
    (acVlcItem len run mag neg s).cfg =
      s.cfg := by
  simp [acVlcItem]
@[simp] theorem acVlcItem_ctrl (len run mag : Nat) (neg : Bool) (s : State) :
    (acVlcItem len run mag neg s).ctrl =
      s.ctrl := by
  simp [acVlcItem]
@[simp] theorem acVlcItem_status (len run mag : Nat) (neg : Bool) (s : State) :
    (acVlcItem len run mag neg s).status =
      s.status := by
  simp [acVlcItem]
@[simp] theorem acVlcItem_inLen (len run mag : Nat) (neg : Bool) (s : State) :
    (acVlcItem len run mag neg s).inLen =
      s.inLen := by
  simp [acVlcItem]
@[simp] theorem acVlcItem_outCount (len run mag : Nat) (neg : Bool) (s : State) :
    (acVlcItem len run mag neg s).outCount =
      s.outCount := by
  simp [acVlcItem]
@[simp] theorem acVlcItem_segCount (len run mag : Nat) (neg : Bool) (s : State) :
    (acVlcItem len run mag neg s).segCount =
      s.segCount := by
  simp [acVlcItem]
@[simp] theorem acVlcItem_oorCount (len run mag : Nat) (neg : Bool) (s : State) :
    (acVlcItem len run mag neg s).oorCount =
      if nextK s.k run = 64 then satInc s.oorCount else s.oorCount := by
  simp [acVlcItem]
@[simp] theorem acVlcItem_overrunCount (len run mag : Nat) (neg : Bool) (s : State) :
    (acVlcItem len run mag neg s).overrunCount =
      (consumeItem (consumePieces len ++ [1]) s).overrunCount := rfl
@[simp] theorem acVlcItem_segcapCount (len run mag : Nat) (neg : Bool) (s : State) :
    (acVlcItem len run mag neg s).segcapCount =
      if pastCapacity s.cfg (s.entryCount + 1) then satInc s.segcapCount else s.segcapCount := by
  simp [acVlcItem]
@[simp] theorem acVlcItem_endPos (len run mag : Nat) (neg : Bool) (s : State) :
    (acVlcItem len run mag neg s).endPos =
      s.endPos := by
  simp [acVlcItem]
@[simp] theorem acVlcItem_endInfo (len run mag : Nat) (neg : Bool) (s : State) :
    (acVlcItem len run mag neg s).endInfo =
      s.endInfo := by
  simp [acVlcItem]
@[simp] theorem acVlcItem_phase (len run mag : Nat) (neg : Bool) (s : State) :
    (acVlcItem len run mag neg s).phase =
      s.phase := by
  simp [acVlcItem]
@[simp] theorem acVlcItem_stage (len run mag : Nat) (neg : Bool) (s : State) :
    (acVlcItem len run mag neg s).stage =
      s.stage := by
  simp [acVlcItem]
@[simp] theorem acVlcItem_cur (len run mag : Nat) (neg : Bool) (s : State) :
    (acVlcItem len run mag neg s).cur =
      s.cur := by
  simp [acVlcItem]
@[simp] theorem acVlcItem_hdr (len run mag : Nat) (neg : Bool) (s : State) :
    (acVlcItem len run mag neg s).hdr =
      s.hdr := by
  simp [acVlcItem]
@[simp] theorem acVlcItem_cursor (len run mag : Nat) (neg : Bool) (s : State) :
    (acVlcItem len run mag neg s).cursor =
      (consumePieces len ++ [1]).foldl (fun c n => c.advance s.mem n) s.cursor := by
  simp [acVlcItem]
@[simp] theorem acVlcItem_pred (len run mag : Nat) (neg : Bool) (s : State) :
    (acVlcItem len run mag neg s).pred =
      s.pred := by
  simp [acVlcItem]
@[simp] theorem acVlcItem_blk (len run mag : Nat) (neg : Bool) (s : State) :
    (acVlcItem len run mag neg s).blk =
      s.blk := by
  simp [acVlcItem]
@[simp] theorem acVlcItem_mb (len run mag : Nat) (neg : Bool) (s : State) :
    (acVlcItem len run mag neg s).mb =
      s.mb := by
  simp [acVlcItem]
@[simp] theorem acVlcItem_k (len run mag : Nat) (neg : Bool) (s : State) :
    (acVlcItem len run mag neg s).k =
      nextK s.k run := by
  simp [acVlcItem]
@[simp] theorem acVlcItem_level (len run mag : Nat) (neg : Bool) (s : State) :
    (acVlcItem len run mag neg s).level =
      if nextK s.k run = 64 then s.level else s.level.set (nextK s.k run) (signedLevel neg mag) := by
  simp [acVlcItem]
@[simp] theorem acVlcItem_qtag (len run mag : Nat) (neg : Bool) (s : State) :
    (acVlcItem len run mag neg s).qtag =
      s.qtag := by
  simp [acVlcItem]
@[simp] theorem acVlcItem_entryCount (len run mag : Nat) (neg : Bool) (s : State) :
    (acVlcItem len run mag neg s).entryCount =
      s.entryCount + 1 := by
  simp [acVlcItem]
@[simp] theorem acVlcItem_poisoned (len run mag : Nat) (neg : Bool) (s : State) :
    (acVlcItem len run mag neg s).poisoned =
      (s.poisoned || (decide (nextK s.k run = 64) && decide (s.cfg.oorPolicy = .poison))) := by
  simp [acVlcItem]
@[simp] theorem acVlcItem_bpix (len run mag : Nat) (neg : Bool) (s : State) :
    (acVlcItem len run mag neg s).bpix =
      s.bpix := by
  simp [acVlcItem]
@[simp] theorem acVlcItem_tile (len run mag : Nat) (neg : Bool) (s : State) :
    (acVlcItem len run mag neg s).tile =
      s.tile := by
  simp [acVlcItem]
@[simp] theorem acVlcItem_frame (len run mag : Nat) (neg : Bool) (s : State) :
    (acVlcItem len run mag neg s).frame =
      s.frame := by
  simp [acVlcItem]
@[simp] theorem acVlcItem_pending (len run mag : Nat) (neg : Bool) (s : State) :
    (acVlcItem len run mag neg s).pending =
      s.pending := by
  simp [acVlcItem]
@[simp] theorem acVlcItem_mem (len run mag : Nat) (neg : Bool) (s : State) :
    (acVlcItem len run mag neg s).mem =
      s.mem := by
  simp [acVlcItem]
@[simp] theorem acVlcItem_host (len run mag : Nat) (neg : Bool) (s : State) :
    (acVlcItem len run mag neg s).host =
      s.host := by
  simp [acVlcItem]
@[simp] theorem acVlcItem_readData (len run mag : Nat) (neg : Bool) (s : State) :
    (acVlcItem len run mag neg s).readData =
      s.readData := by
  simp [acVlcItem]
@[simp] theorem acVlcItem_out (len run mag : Nat) (neg : Bool) (s : State) :
    (acVlcItem len run mag neg s).out =
      s.out := by
  simp [acVlcItem]
@[simp] theorem acVlcItem_draws (len run mag : Nat) (neg : Bool) (s : State) :
    (acVlcItem len run mag neg s).draws =
      s.draws := by
  simp [acVlcItem]

/-! `acEscItem`. -/

@[simp] theorem acEscItem_cfg (len : Nat) (run : BitVec 6) (v : BitVec 11) (s : State) :
    (acEscItem len run v s).cfg =
      s.cfg := by
  simp [acEscItem]
@[simp] theorem acEscItem_ctrl (len : Nat) (run : BitVec 6) (v : BitVec 11) (s : State) :
    (acEscItem len run v s).ctrl =
      s.ctrl := by
  simp [acEscItem]
@[simp] theorem acEscItem_status (len : Nat) (run : BitVec 6) (v : BitVec 11) (s : State) :
    (acEscItem len run v s).status =
      s.status := by
  simp [acEscItem]
@[simp] theorem acEscItem_inLen (len : Nat) (run : BitVec 6) (v : BitVec 11) (s : State) :
    (acEscItem len run v s).inLen =
      s.inLen := by
  simp [acEscItem]
@[simp] theorem acEscItem_outCount (len : Nat) (run : BitVec 6) (v : BitVec 11) (s : State) :
    (acEscItem len run v s).outCount =
      s.outCount := by
  simp [acEscItem]
@[simp] theorem acEscItem_segCount (len : Nat) (run : BitVec 6) (v : BitVec 11) (s : State) :
    (acEscItem len run v s).segCount =
      s.segCount := by
  simp [acEscItem]
@[simp] theorem acEscItem_oorCount (len : Nat) (run : BitVec 6) (v : BitVec 11) (s : State) :
    (acEscItem len run v s).oorCount =
      if nextK s.k run.toNat = 64 then satInc s.oorCount else s.oorCount := by
  simp [acEscItem]
@[simp] theorem acEscItem_overrunCount (len : Nat) (run : BitVec 6) (v : BitVec 11) (s : State) :
    (acEscItem len run v s).overrunCount =
      (consumeItem (consumePieces len ++ [6, 11]) s).overrunCount := rfl
@[simp] theorem acEscItem_segcapCount (len : Nat) (run : BitVec 6) (v : BitVec 11) (s : State) :
    (acEscItem len run v s).segcapCount =
      if pastCapacity s.cfg (s.entryCount + 1) then satInc s.segcapCount else s.segcapCount := by
  simp [acEscItem]
@[simp] theorem acEscItem_endPos (len : Nat) (run : BitVec 6) (v : BitVec 11) (s : State) :
    (acEscItem len run v s).endPos =
      s.endPos := by
  simp [acEscItem]
@[simp] theorem acEscItem_endInfo (len : Nat) (run : BitVec 6) (v : BitVec 11) (s : State) :
    (acEscItem len run v s).endInfo =
      s.endInfo := by
  simp [acEscItem]
@[simp] theorem acEscItem_phase (len : Nat) (run : BitVec 6) (v : BitVec 11) (s : State) :
    (acEscItem len run v s).phase =
      s.phase := by
  simp [acEscItem]
@[simp] theorem acEscItem_stage (len : Nat) (run : BitVec 6) (v : BitVec 11) (s : State) :
    (acEscItem len run v s).stage =
      s.stage := by
  simp [acEscItem]
@[simp] theorem acEscItem_cur (len : Nat) (run : BitVec 6) (v : BitVec 11) (s : State) :
    (acEscItem len run v s).cur =
      s.cur := by
  simp [acEscItem]
@[simp] theorem acEscItem_hdr (len : Nat) (run : BitVec 6) (v : BitVec 11) (s : State) :
    (acEscItem len run v s).hdr =
      s.hdr := by
  simp [acEscItem]
@[simp] theorem acEscItem_cursor (len : Nat) (run : BitVec 6) (v : BitVec 11) (s : State) :
    (acEscItem len run v s).cursor =
      (consumePieces len ++ [6, 11]).foldl (fun c n => c.advance s.mem n) s.cursor := by
  simp [acEscItem]
@[simp] theorem acEscItem_pred (len : Nat) (run : BitVec 6) (v : BitVec 11) (s : State) :
    (acEscItem len run v s).pred =
      s.pred := by
  simp [acEscItem]
@[simp] theorem acEscItem_blk (len : Nat) (run : BitVec 6) (v : BitVec 11) (s : State) :
    (acEscItem len run v s).blk =
      s.blk := by
  simp [acEscItem]
@[simp] theorem acEscItem_mb (len : Nat) (run : BitVec 6) (v : BitVec 11) (s : State) :
    (acEscItem len run v s).mb =
      s.mb := by
  simp [acEscItem]
@[simp] theorem acEscItem_k (len : Nat) (run : BitVec 6) (v : BitVec 11) (s : State) :
    (acEscItem len run v s).k =
      nextK s.k run.toNat := by
  simp [acEscItem]
@[simp] theorem acEscItem_level (len : Nat) (run : BitVec 6) (v : BitVec 11) (s : State) :
    (acEscItem len run v s).level =
      if nextK s.k run.toNat = 64 then s.level else s.level.set (nextK s.k run.toNat) v.toInt := by
  simp [acEscItem]
@[simp] theorem acEscItem_qtag (len : Nat) (run : BitVec 6) (v : BitVec 11) (s : State) :
    (acEscItem len run v s).qtag =
      s.qtag := by
  simp [acEscItem]
@[simp] theorem acEscItem_entryCount (len : Nat) (run : BitVec 6) (v : BitVec 11) (s : State) :
    (acEscItem len run v s).entryCount =
      s.entryCount + 1 := by
  simp [acEscItem]
@[simp] theorem acEscItem_poisoned (len : Nat) (run : BitVec 6) (v : BitVec 11) (s : State) :
    (acEscItem len run v s).poisoned =
      (s.poisoned || (decide (nextK s.k run.toNat = 64) && decide (s.cfg.oorPolicy = .poison))) := by
  simp [acEscItem]
@[simp] theorem acEscItem_bpix (len : Nat) (run : BitVec 6) (v : BitVec 11) (s : State) :
    (acEscItem len run v s).bpix =
      s.bpix := by
  simp [acEscItem]
@[simp] theorem acEscItem_tile (len : Nat) (run : BitVec 6) (v : BitVec 11) (s : State) :
    (acEscItem len run v s).tile =
      s.tile := by
  simp [acEscItem]
@[simp] theorem acEscItem_frame (len : Nat) (run : BitVec 6) (v : BitVec 11) (s : State) :
    (acEscItem len run v s).frame =
      s.frame := by
  simp [acEscItem]
@[simp] theorem acEscItem_pending (len : Nat) (run : BitVec 6) (v : BitVec 11) (s : State) :
    (acEscItem len run v s).pending =
      s.pending := by
  simp [acEscItem]
@[simp] theorem acEscItem_mem (len : Nat) (run : BitVec 6) (v : BitVec 11) (s : State) :
    (acEscItem len run v s).mem =
      s.mem := by
  simp [acEscItem]
@[simp] theorem acEscItem_host (len : Nat) (run : BitVec 6) (v : BitVec 11) (s : State) :
    (acEscItem len run v s).host =
      s.host := by
  simp [acEscItem]
@[simp] theorem acEscItem_readData (len : Nat) (run : BitVec 6) (v : BitVec 11) (s : State) :
    (acEscItem len run v s).readData =
      s.readData := by
  simp [acEscItem]
@[simp] theorem acEscItem_out (len : Nat) (run : BitVec 6) (v : BitVec 11) (s : State) :
    (acEscItem len run v s).out =
      s.out := by
  simp [acEscItem]
@[simp] theorem acEscItem_draws (len : Nat) (run : BitVec 6) (v : BitVec 11) (s : State) :
    (acEscItem len run v s).draws =
      s.draws := by
  simp [acEscItem]

/-! `acEobItem`. -/

@[simp] theorem acEobItem_cfg (len : Nat) (s : State) :
    (acEobItem len s).cfg =
      s.cfg := by
  simp [acEobItem]
@[simp] theorem acEobItem_ctrl (len : Nat) (s : State) :
    (acEobItem len s).ctrl =
      s.ctrl := by
  simp [acEobItem]
@[simp] theorem acEobItem_status (len : Nat) (s : State) :
    (acEobItem len s).status =
      s.status := by
  simp [acEobItem]
@[simp] theorem acEobItem_inLen (len : Nat) (s : State) :
    (acEobItem len s).inLen =
      s.inLen := by
  simp [acEobItem]
@[simp] theorem acEobItem_outCount (len : Nat) (s : State) :
    (acEobItem len s).outCount =
      s.outCount := by
  simp [acEobItem]
@[simp] theorem acEobItem_segCount (len : Nat) (s : State) :
    (acEobItem len s).segCount =
      s.segCount := by
  simp [acEobItem]
@[simp] theorem acEobItem_oorCount (len : Nat) (s : State) :
    (acEobItem len s).oorCount =
      s.oorCount := by
  simp [acEobItem]
@[simp] theorem acEobItem_overrunCount (len : Nat) (s : State) :
    (acEobItem len s).overrunCount =
      (consumeItem (consumePieces len) s).overrunCount := rfl
@[simp] theorem acEobItem_segcapCount (len : Nat) (s : State) :
    (acEobItem len s).segcapCount =
      if pastCapacity s.cfg (s.entryCount + 1) then satInc s.segcapCount else s.segcapCount := by
  simp [acEobItem]
@[simp] theorem acEobItem_endPos (len : Nat) (s : State) :
    (acEobItem len s).endPos =
      s.endPos := by
  simp [acEobItem]
@[simp] theorem acEobItem_endInfo (len : Nat) (s : State) :
    (acEobItem len s).endInfo =
      s.endInfo := by
  simp [acEobItem]
@[simp] theorem acEobItem_phase (len : Nat) (s : State) :
    (acEobItem len s).phase =
      s.phase := by
  simp [acEobItem]
@[simp] theorem acEobItem_stage (len : Nat) (s : State) :
    (acEobItem len s).stage =
      .reconstruct := by
  simp [acEobItem]
@[simp] theorem acEobItem_cur (len : Nat) (s : State) :
    (acEobItem len s).cur =
      s.cur := by
  simp [acEobItem]
@[simp] theorem acEobItem_hdr (len : Nat) (s : State) :
    (acEobItem len s).hdr =
      s.hdr := by
  simp [acEobItem]
@[simp] theorem acEobItem_cursor (len : Nat) (s : State) :
    (acEobItem len s).cursor =
      (consumePieces len).foldl (fun c n => c.advance s.mem n) s.cursor := by
  simp [acEobItem]
@[simp] theorem acEobItem_pred (len : Nat) (s : State) :
    (acEobItem len s).pred =
      s.pred := by
  simp [acEobItem]
@[simp] theorem acEobItem_blk (len : Nat) (s : State) :
    (acEobItem len s).blk =
      s.blk := by
  simp [acEobItem]
@[simp] theorem acEobItem_mb (len : Nat) (s : State) :
    (acEobItem len s).mb =
      s.mb := by
  simp [acEobItem]
@[simp] theorem acEobItem_k (len : Nat) (s : State) :
    (acEobItem len s).k =
      s.k := by
  simp [acEobItem]
@[simp] theorem acEobItem_level (len : Nat) (s : State) :
    (acEobItem len s).level =
      s.level := by
  simp [acEobItem]
@[simp] theorem acEobItem_qtag (len : Nat) (s : State) :
    (acEobItem len s).qtag =
      s.qtag := by
  simp [acEobItem]
@[simp] theorem acEobItem_entryCount (len : Nat) (s : State) :
    (acEobItem len s).entryCount =
      s.entryCount + 1 := by
  simp [acEobItem]
@[simp] theorem acEobItem_poisoned (len : Nat) (s : State) :
    (acEobItem len s).poisoned =
      s.poisoned := by
  simp [acEobItem]
@[simp] theorem acEobItem_bpix (len : Nat) (s : State) :
    (acEobItem len s).bpix =
      s.bpix := by
  simp [acEobItem]
@[simp] theorem acEobItem_tile (len : Nat) (s : State) :
    (acEobItem len s).tile =
      s.tile := by
  simp [acEobItem]
@[simp] theorem acEobItem_frame (len : Nat) (s : State) :
    (acEobItem len s).frame =
      s.frame := by
  simp [acEobItem]
@[simp] theorem acEobItem_pending (len : Nat) (s : State) :
    (acEobItem len s).pending =
      s.pending := by
  simp [acEobItem]
@[simp] theorem acEobItem_mem (len : Nat) (s : State) :
    (acEobItem len s).mem =
      s.mem := by
  simp [acEobItem]
@[simp] theorem acEobItem_host (len : Nat) (s : State) :
    (acEobItem len s).host =
      s.host := by
  simp [acEobItem]
@[simp] theorem acEobItem_readData (len : Nat) (s : State) :
    (acEobItem len s).readData =
      s.readData := by
  simp [acEobItem]
@[simp] theorem acEobItem_out (len : Nat) (s : State) :
    (acEobItem len s).out =
      s.out := by
  simp [acEobItem]
@[simp] theorem acEobItem_draws (len : Nat) (s : State) :
    (acEobItem len s).draws =
      s.draws := by
  simp [acEobItem]

/-! `textureRecord`: what it leaves alone. -/

@[simp] theorem textureRecord_cfg (p : Nat) (s : State) : (textureRecord p s).cfg = s.cfg := by
  unfold textureRecord; split <;> [rfl; (split <;> [rfl; (split <;> rfl)])]
@[simp] theorem textureRecord_ctrl (p : Nat) (s : State) : (textureRecord p s).ctrl = s.ctrl := by
  unfold textureRecord; split <;> [rfl; (split <;> [rfl; (split <;> rfl)])]
@[simp] theorem textureRecord_inLen (p : Nat) (s : State) : (textureRecord p s).inLen = s.inLen := by
  unfold textureRecord; split <;> [rfl; (split <;> [rfl; (split <;> rfl)])]
@[simp] theorem textureRecord_segCount (p : Nat) (s : State) : (textureRecord p s).segCount = s.segCount := by
  unfold textureRecord; split <;> [rfl; (split <;> [rfl; (split <;> rfl)])]
@[simp] theorem textureRecord_oorCount (p : Nat) (s : State) : (textureRecord p s).oorCount = s.oorCount := by
  unfold textureRecord; split <;> [rfl; (split <;> [rfl; (split <;> rfl)])]
@[simp] theorem textureRecord_segcapCount (p : Nat) (s : State) : (textureRecord p s).segcapCount = s.segcapCount := by
  unfold textureRecord; split <;> [rfl; (split <;> [rfl; (split <;> rfl)])]
@[simp] theorem textureRecord_endPos (p : Nat) (s : State) : (textureRecord p s).endPos = s.endPos := by
  unfold textureRecord; split <;> [rfl; (split <;> [rfl; (split <;> rfl)])]
@[simp] theorem textureRecord_endInfo (p : Nat) (s : State) : (textureRecord p s).endInfo = s.endInfo := by
  unfold textureRecord; split <;> [rfl; (split <;> [rfl; (split <;> rfl)])]
@[simp] theorem textureRecord_phase (p : Nat) (s : State) : (textureRecord p s).phase = s.phase := by
  unfold textureRecord; split <;> [rfl; (split <;> [rfl; (split <;> rfl)])]
@[simp] theorem textureRecord_stage (p : Nat) (s : State) : (textureRecord p s).stage = s.stage := by
  unfold textureRecord; split <;> [rfl; (split <;> [rfl; (split <;> rfl)])]
@[simp] theorem textureRecord_cur (p : Nat) (s : State) : (textureRecord p s).cur = s.cur := by
  unfold textureRecord; split <;> [rfl; (split <;> [rfl; (split <;> rfl)])]
@[simp] theorem textureRecord_hdr (p : Nat) (s : State) : (textureRecord p s).hdr = s.hdr := by
  unfold textureRecord; split <;> [rfl; (split <;> [rfl; (split <;> rfl)])]
@[simp] theorem textureRecord_cursor (p : Nat) (s : State) : (textureRecord p s).cursor = s.cursor := by
  unfold textureRecord; split <;> [rfl; (split <;> [rfl; (split <;> rfl)])]
@[simp] theorem textureRecord_pred (p : Nat) (s : State) : (textureRecord p s).pred = s.pred := by
  unfold textureRecord; split <;> [rfl; (split <;> [rfl; (split <;> rfl)])]
@[simp] theorem textureRecord_blk (p : Nat) (s : State) : (textureRecord p s).blk = s.blk := by
  unfold textureRecord; split <;> [rfl; (split <;> [rfl; (split <;> rfl)])]
@[simp] theorem textureRecord_mb (p : Nat) (s : State) : (textureRecord p s).mb = s.mb := by
  unfold textureRecord; split <;> [rfl; (split <;> [rfl; (split <;> rfl)])]
@[simp] theorem textureRecord_k (p : Nat) (s : State) : (textureRecord p s).k = s.k := by
  unfold textureRecord; split <;> [rfl; (split <;> [rfl; (split <;> rfl)])]
@[simp] theorem textureRecord_level (p : Nat) (s : State) : (textureRecord p s).level = s.level := by
  unfold textureRecord; split <;> [rfl; (split <;> [rfl; (split <;> rfl)])]
@[simp] theorem textureRecord_qtag (p : Nat) (s : State) : (textureRecord p s).qtag = s.qtag := by
  unfold textureRecord; split <;> [rfl; (split <;> [rfl; (split <;> rfl)])]
@[simp] theorem textureRecord_entryCount (p : Nat) (s : State) : (textureRecord p s).entryCount = s.entryCount := by
  unfold textureRecord; split <;> [rfl; (split <;> [rfl; (split <;> rfl)])]
@[simp] theorem textureRecord_poisoned (p : Nat) (s : State) : (textureRecord p s).poisoned = s.poisoned := by
  unfold textureRecord; split <;> [rfl; (split <;> [rfl; (split <;> rfl)])]
@[simp] theorem textureRecord_bpix (p : Nat) (s : State) : (textureRecord p s).bpix = s.bpix := by
  unfold textureRecord; split <;> [rfl; (split <;> [rfl; (split <;> rfl)])]
@[simp] theorem textureRecord_tile (p : Nat) (s : State) : (textureRecord p s).tile = s.tile := by
  unfold textureRecord; split <;> [rfl; (split <;> [rfl; (split <;> rfl)])]
@[simp] theorem textureRecord_frame (p : Nat) (s : State) : (textureRecord p s).frame = s.frame := by
  unfold textureRecord; split <;> [rfl; (split <;> [rfl; (split <;> rfl)])]
@[simp] theorem textureRecord_mem (p : Nat) (s : State) : (textureRecord p s).mem = s.mem := by
  unfold textureRecord; split <;> [rfl; (split <;> [rfl; (split <;> rfl)])]
@[simp] theorem textureRecord_host (p : Nat) (s : State) : (textureRecord p s).host = s.host := by
  unfold textureRecord; split <;> [rfl; (split <;> [rfl; (split <;> rfl)])]
@[simp] theorem textureRecord_readData (p : Nat) (s : State) : (textureRecord p s).readData = s.readData := by
  unfold textureRecord; split <;> [rfl; (split <;> [rfl; (split <;> rfl)])]
@[simp] theorem textureRecord_out (p : Nat) (s : State) : (textureRecord p s).out = s.out := by
  unfold textureRecord; split <;> [rfl; (split <;> [rfl; (split <;> rfl)])]
@[simp] theorem textureRecord_draws (p : Nat) (s : State) : (textureRecord p s).draws = s.draws := by
  unfold textureRecord; split <;> [rfl; (split <;> [rfl; (split <;> rfl)])]

/-! `popHost` touches the host list alone. -/

@[simp] theorem popHost_cfg (s : State) : (popHost s).cfg = s.cfg := by
  unfold popHost; split
  · split <;> rfl
  · rfl
@[simp] theorem popHost_ctrl (s : State) : (popHost s).ctrl = s.ctrl := by
  unfold popHost; split
  · split <;> rfl
  · rfl
@[simp] theorem popHost_status (s : State) : (popHost s).status = s.status := by
  unfold popHost; split
  · split <;> rfl
  · rfl
@[simp] theorem popHost_inLen (s : State) : (popHost s).inLen = s.inLen := by
  unfold popHost; split
  · split <;> rfl
  · rfl
@[simp] theorem popHost_outCount (s : State) : (popHost s).outCount = s.outCount := by
  unfold popHost; split
  · split <;> rfl
  · rfl
@[simp] theorem popHost_segCount (s : State) : (popHost s).segCount = s.segCount := by
  unfold popHost; split
  · split <;> rfl
  · rfl
@[simp] theorem popHost_oorCount (s : State) : (popHost s).oorCount = s.oorCount := by
  unfold popHost; split
  · split <;> rfl
  · rfl
@[simp] theorem popHost_overrunCount (s : State) : (popHost s).overrunCount = s.overrunCount := by
  unfold popHost; split
  · split <;> rfl
  · rfl
@[simp] theorem popHost_segcapCount (s : State) : (popHost s).segcapCount = s.segcapCount := by
  unfold popHost; split
  · split <;> rfl
  · rfl
@[simp] theorem popHost_endPos (s : State) : (popHost s).endPos = s.endPos := by
  unfold popHost; split
  · split <;> rfl
  · rfl
@[simp] theorem popHost_endInfo (s : State) : (popHost s).endInfo = s.endInfo := by
  unfold popHost; split
  · split <;> rfl
  · rfl
@[simp] theorem popHost_phase (s : State) : (popHost s).phase = s.phase := by
  unfold popHost; split
  · split <;> rfl
  · rfl
@[simp] theorem popHost_stage (s : State) : (popHost s).stage = s.stage := by
  unfold popHost; split
  · split <;> rfl
  · rfl
@[simp] theorem popHost_cur (s : State) : (popHost s).cur = s.cur := by
  unfold popHost; split
  · split <;> rfl
  · rfl
@[simp] theorem popHost_hdr (s : State) : (popHost s).hdr = s.hdr := by
  unfold popHost; split
  · split <;> rfl
  · rfl
@[simp] theorem popHost_cursor (s : State) : (popHost s).cursor = s.cursor := by
  unfold popHost; split
  · split <;> rfl
  · rfl
@[simp] theorem popHost_pred (s : State) : (popHost s).pred = s.pred := by
  unfold popHost; split
  · split <;> rfl
  · rfl
@[simp] theorem popHost_blk (s : State) : (popHost s).blk = s.blk := by
  unfold popHost; split
  · split <;> rfl
  · rfl
@[simp] theorem popHost_mb (s : State) : (popHost s).mb = s.mb := by
  unfold popHost; split
  · split <;> rfl
  · rfl
@[simp] theorem popHost_k (s : State) : (popHost s).k = s.k := by
  unfold popHost; split
  · split <;> rfl
  · rfl
@[simp] theorem popHost_level (s : State) : (popHost s).level = s.level := by
  unfold popHost; split
  · split <;> rfl
  · rfl
@[simp] theorem popHost_qtag (s : State) : (popHost s).qtag = s.qtag := by
  unfold popHost; split
  · split <;> rfl
  · rfl
@[simp] theorem popHost_entryCount (s : State) : (popHost s).entryCount = s.entryCount := by
  unfold popHost; split
  · split <;> rfl
  · rfl
@[simp] theorem popHost_poisoned (s : State) : (popHost s).poisoned = s.poisoned := by
  unfold popHost; split
  · split <;> rfl
  · rfl
@[simp] theorem popHost_bpix (s : State) : (popHost s).bpix = s.bpix := by
  unfold popHost; split
  · split <;> rfl
  · rfl
@[simp] theorem popHost_tile (s : State) : (popHost s).tile = s.tile := by
  unfold popHost; split
  · split <;> rfl
  · rfl
@[simp] theorem popHost_frame (s : State) : (popHost s).frame = s.frame := by
  unfold popHost; split
  · split <;> rfl
  · rfl
@[simp] theorem popHost_pending (s : State) : (popHost s).pending = s.pending := by
  unfold popHost; split
  · split <;> rfl
  · rfl
@[simp] theorem popHost_mem (s : State) : (popHost s).mem = s.mem := by
  unfold popHost; split
  · split <;> rfl
  · rfl
@[simp] theorem popHost_readData (s : State) : (popHost s).readData = s.readData := by
  unfold popHost; split
  · split <;> rfl
  · rfl
@[simp] theorem popHost_out (s : State) : (popHost s).out = s.out := by
  unfold popHost; split
  · split <;> rfl
  · rfl
@[simp] theorem popHost_draws (s : State) : (popHost s).draws = s.draws := by
  unfold popHost; split
  · split <;> rfl
  · rfl

/-! Fields of the records inside State. -/

@[simp] theorem pred_get_set (p : Pred) (c : Channel) (v : Int) : (p.set c v).get c = v := by cases c <;> rfl

@[simp] theorem pred_get_set_ne (p : Pred) (c d : Channel) (v : Int) (h : d ≠ c) : (p.set c v).get d = p.get d := by
  cases c <;> cases d <;> first | rfl | exact absurd rfl h

@[simp] theorem bpix_get_set (b : BlockPixels) (r : Role) (v : List Int) : (b.set r v).get r = v := by cases r <;> rfl

@[simp] theorem bpix_get_set_ne (b : BlockPixels) (r q : Role) (v : List Int) (h : q ≠ r) :
    (b.set r v).get q = b.get q := by
  cases r <;> cases q <;> first | rfl | exact absurd rfl h

end Sys2Proof.Machine
end

