-- ==== Sys2Proof/Laws/Ops.lean ====
section
/-! SUPPORT. What each shared operation can do, said once in the terms of Safety.lean. -/

namespace Sys2Proof.Machine

/-- A counter never falls (R35). -/
theorem satInc_ge (c : Word) : c.toNat ≤ (satInc c).toNat := by
  unfold satInc
  split
  · rfl
  · rename_i h
    have hb := c.isLt
    have hne : c.toNat ≠ 4294967295 := fun hc => h (BitVec.eq_of_toNat_eq (by simpa using hc))
    rw [BitVec.toNat_add]
    simp
    omega

theorem overruns_iff (c : Cursor) (n : Nat) : c.overruns n = true ↔ TakesPastEnd c c.bitpos n := by
  simp [Cursor.overruns, TakesPastEnd, List.any_eq_true]

/-- TakesPastEnd looks at the region alone. -/
theorem takesPastEnd_congr {c d : Cursor} (hb : c.srcBase = d.srcBase) (he : c.srcEnd = d.srcEnd) (p n : Nat) :
    TakesPastEnd c p n ↔ TakesPastEnd d p n := by simp [TakesPastEnd, hb, he]

theorem overrunsTo_congr {c d : Cursor} (hb : c.srcBase = d.srcBase) (he : c.srcEnd = d.srcEnd) :
    ∀ (ws : List Nat) (p : Nat) (a b : Word), OverrunsTo c p ws a b ↔ OverrunsTo d p ws a b
  | [], _, _, _ => Iff.rfl
  | w :: ws, p, a, b => by
    simp only [OverrunsTo, takesPastEnd_congr hb he p w, overrunsTo_congr hb he ws]

/-- The reports of successive Consumes, one for each (R145). -/
theorem foldl_consume_overruns : ∀ (ws : List Nat) (s : State),
    OverrunsTo s.cursor s.cursor.bitpos ws s.overrunCount (ws.foldl (fun u n => consume n u) s).overrunCount
  | [], _ => rfl
  | n :: ws, s => by
    have ho := foldl_consume_overruns ws (consume n s)
    rw [overrunsTo_congr (d := s.cursor) (by simp) (by simp), consume_overrunCount] at ho
    simp only [consume_cursor, advance_bitpos] at ho
    exact ⟨fun hp => by rwa [if_pos ((overruns_iff _ _).2 hp)] at ho,
      fun hp => by rwa [if_neg (fun h => hp ((overruns_iff _ _).1 h))] at ho⟩

theorem foldl_advance_bitpos (m : Memory) : ∀ (ws : List Nat) (c : Cursor),
    (ws.foldl (fun c n => c.advance m n) c).bitpos = c.bitpos + ws.sum
  | [], _ => rfl
  | n :: ws, c => by rw [List.foldl_cons, foldl_advance_bitpos m ws]; simp; omega

/-- What consumeItem does, said once (R142, R145, R335). -/
theorem consumeItem_consumes (ws : List Nat) (s : State) : Consumes s (consumeItem ws s) ws where
  cursor := by simp
  bitpos := by simp [foldl_advance_bitpos]
  reportEach := by
    intro h
    unfold consumeItem
    simp only [h]
    exact foldl_consume_overruns ws s
  reportItem := by
    intro h
    unfold consumeItem
    simp only [h]
    exact ⟨fun hp => if_pos ((overruns_iff _ _).2 hp), fun hp => if_neg fun h => hp ((overruns_iff _ _).1 h)⟩

/-- Consumes speaks of four fields of the first state and two of the second. -/
theorem consumes_congr {s s' t t' : State} {ws : List Nat} (hg : s'.cfg = s.cfg) (hm : s'.mem = s.mem)
    (hc : s'.cursor = s.cursor) (ho : s'.overrunCount = s.overrunCount) (hc' : t'.cursor = t.cursor)
    (ho' : t'.overrunCount = t.overrunCount) (h : Consumes s t ws) : Consumes s' t' ws := by
  obtain ⟨h1, h2, h3, h4⟩ := h
  exact ⟨by rw [hc', hm, hc, h1], by rw [hc', hc, h2], by rw [hg, hc, ho, ho']; exact h3,
    by rw [hg, hc, ho, ho']; exact h4⟩

/-- CapCheck after one more entry (R198). -/
theorem countsEntry_of {s t : State} (he : t.entryCount = s.entryCount + 1)
    (hs : t.segcapCount = if pastCapacity s.cfg (s.entryCount + 1) then satInc s.segcapCount else s.segcapCount) :
    CountsEntry s t where
  entry := he
  unbounded := by intro h; rw [hs]; simp [pastCapacity, h]
  within := by intro cap h hle; rw [hs]; simp [pastCapacity, h]; omega
  past := by intro cap h hlt; rw [hs]; simp [pastCapacity, h]; omega

/-- A code of at most 16 bits is one Consume (R164, R192). -/
theorem consumePieces_le {n : Nat} (h : n ≤ 16) : consumePieces n = [n] := by
  have : (n - 1) / 16 = 0 := by omega
  simp [consumePieces, this]

/-- The pieces of a code are its bits (R164). -/
@[simp] theorem consumePieces_sum (n : Nat) : (consumePieces n).sum = n := by
  simp [consumePieces]; omega

/-- No piece is wider than a Consume can take (R142, R164). -/
theorem consumePieces_width {n w : Nat} (h : w ∈ consumePieces n) : w ≤ 16 := by
  simp only [consumePieces, List.mem_append, List.mem_replicate, List.mem_singleton] at h
  omega

/-- The pieces of a code word are what R164 asks for. -/
theorem consumePieces_pieces {n : Nat} (h : 1 ≤ n) : PiecesOf n (consumePieces n) := by
  refine ⟨consumePieces_sum n, fun w hw => ⟨?_, consumePieces_width hw⟩, consumePieces_le⟩
  simp only [consumePieces, List.mem_append, List.mem_replicate, List.mem_singleton] at hw
  omega

/-- A property of the cursor that every Consume of at most 16 bits keeps is kept by the Consumes of an item. -/
theorem foldl_advance_keeps {P : Cursor → Prop} {m : Memory} (hP : ∀ n c, n ≤ 16 → P c → P (c.advance m n)) :
    ∀ (ws : List Nat) (c : Cursor), (∀ w ∈ ws, w ≤ 16) → P c → P (ws.foldl (fun c n => c.advance m n) c)
  | [], _, _, h => h
  | n :: ws, c, hw, h => foldl_advance_keeps hP ws _ (fun w hm => hw w (by simp [hm])) (hP n c (hw n (by simp)) h)

/-- The Consumes of an item never lower OVERRUN_COUNT (R35). -/
theorem consumeItem_overrunCount_ge (ws : List Nat) (s : State) :
    s.overrunCount.toNat ≤ (consumeItem ws s).overrunCount.toNat := by
  have h : ∀ (ws : List Nat) (u : State),
      u.overrunCount.toNat ≤ (ws.foldl (fun u n => consume n u) u).overrunCount.toNat := by
    intro ws
    induction ws with
    | nil => intro u; exact le_refl _
    | cons n ws ih =>
      intro u
      refine le_trans ?_ (ih (consume n u))
      rw [consume_overrunCount]
      split
      · exact satInc_ge _
      · exact le_refl _
  unfold consumeItem
  simp only
  split
  · exact h ws s
  · simp only
    split
    · exact satInc_ge _
    · exact le_refl _

/-- What START_CHECK can do: one of the two fatal ends, or the first step of the framer that MODE selects, with a frame of the
run's raster (R283). -/
theorem startCheck_cases (s : State) :
    startCheck s = runEnd .ioError s ∨ startCheck s = runEnd .allocFailure s
    ∨ (s.ctrl.mode = true ∧ startCheck s = { s with
        phase := .segHdr, stage := .first, frame := List.replicate (s.cfg.frameW * s.cfg.frameH) 0 })
    ∨ (s.ctrl.mode = false ∧ startCheck s = { s with
        phase := .tiled, stage := .first, frame := List.replicate 81920 0 }) := by
  unfold startCheck
  split
  · exact Or.inl rfl
  · split
    · exact Or.inr (Or.inl rfl)
    · cases h : s.ctrl.mode
      · exact Or.inr (Or.inr (Or.inr ⟨rfl, by simp only [rasterNeed, h, Bool.false_eq_true, if_false]⟩))
      · exact Or.inr (Or.inr (Or.inl ⟨rfl, by simp only [rasterNeed, h, if_true]⟩))

/-- What TextureRecord can do: nothing, one artifact on the port, or one Overrun report (R300, R306). -/
theorem textureRecord_cases (p : Nat) (s : State) :
    textureRecord p s = s
    ∨ (∃ start len, textureRecord p s = emit (fun i => .nativeTexture i (s.mem.bytes start len)) s)
    ∨ textureRecord p s = { s with overrunCount := satInc s.overrunCount } := by
  unfold textureRecord
  split
  · exact Or.inl rfl
  · split
    · exact Or.inl rfl
    · split
      · exact Or.inr (Or.inl ⟨_, _, rfl⟩)
      · exact Or.inr (Or.inr rfl)

/-- NextK is a legal position. -/
theorem nextK_le (k run : Nat) : nextK k run ≤ 64 := by unfold nextK; split <;> omega

theorem nextK_stored {k run : Nat} (_h : k ≠ 64) (h' : k + run + 1 ≤ 63) : nextK k run = k + run + 1 := by
  unfold nextK; rw [if_neg]; omega

theorem nextK_dropped {k run : Nat} (h : k = 64 ∨ 63 < k + run + 1) : nextK k run = 64 := by
  unfold nextK; rw [if_pos]; omega

end Sys2Proof.Machine
end

