-- ==== Sys2Proof/Laws/Exec.lean ====
section
/-! SUPPORT. What the meanings of the bitstream's instructions are, by the context that they are read in. -/

namespace Sys2Proof.Machine

/-- An AC item is a table row, an escape or an end of block. -/
theorem exec_acItem (i : Instr) (h : i.context = .acItem) :
    (∃ len run mag neg, len ≤ 16 ∧ ∀ s, exec i s = .next (acVlcItem len run mag neg s))
    ∨ (∃ run level, ∀ s, exec i s = .next (acEscItem 6 run level s))
    ∨ (∀ s, exec i s = .next (acEobItem 2 s)) := by
  cases i
  case esc run level => exact Or.inr (Or.inl ⟨run, level, fun _ => rfl⟩)
  case eob => exact Or.inr (Or.inr fun _ => rfl)
  all_goals first
    | (cases h; done)
    | exact Or.inl ⟨_, _, _, _, by decide, fun _ => rfl⟩

/-- A luma DC item is a size code and a literal. -/
theorem exec_dcLuma (i : Instr) (h : i.context = .dcLuma) :
    ∃ len size b, len ≤ 16 ∧ size ≤ 16 ∧ ∀ s, exec i s = .next (dcPredItem .y len size b s) := by
  cases i <;>
    first
    | (cases h; done)
    | exact ⟨_, _, _, by decide, by decide, fun _ => rfl⟩

/-- A chroma DC item is a size code and a literal. -/
theorem exec_dcChroma (i : Instr) (h : i.context = .dcChroma) :
    ∃ len size b, len ≤ 16 ∧ size ≤ 16 ∧ ∀ s, exec i s = .next (dcPredItem s.channel len size b s) := by
  cases i <;>
    first
    | (cases h; done)
    | exact ⟨_, _, _, by decide, by decide, fun _ => rfl⟩

/-- A flat DC item. -/
theorem exec_dcFlat (i : Instr) (h : i.context = .dcFlat) :
    ∃ d : BitVec 10, ∀ s, exec i s = .next (dcFlatItem d.toInt s) := by
  cases i
  case dcf d => exact ⟨d, fun _ => rfl⟩
  all_goals cases h

end Sys2Proof.Machine
end

