-- ==== Sys2Proof/Laws/Items.lean ====
section
/-! SUPPORT. Once for each shared operation of the bitstream's items: everything it can do, in the terms of Safety.lean. -/

namespace Sys2Proof.Machine

/-- What AdvanceStore adds to Consumes that only touch the cursor and OVERRUN_COUNT (R196, R197). -/
theorem advanceStore_effect {s u : State} {ws : List Nat} (run : Nat) (v : Int)
    (hu : u = { s with cursor := u.cursor, overrunCount := u.overrunCount }) (hc : Consumes s u ws) :
    AcEffect s (advanceStore run v u) ws run v where
  consumes := consumes_congr (s := s) (t := u) rfl rfl rfl rfl (by simp) (by simp) hc
  counts := countsEntry_of (by rw [hu]; simp) (by rw [hu]; simp)
  stored := by
    intro h1 h2
    have hn := nextK_stored h1 h2
    have h3 : ¬ s.k + run + 1 = 64 := by omega
    rw [hu]
    refine ⟨?_, ?_, ?_, ?_⟩ <;> simp [hn, h3]
  dropped := by
    intro h
    have hn := nextK_dropped h
    rw [hu]
    refine ⟨?_, ?_, ?_, ?_⟩ <;> simp [hn]
  frame := by rw [hu]; rfl

/-- An AC_VLC item of a code of any length (R192). -/
theorem acVlcItem_effect_pieces (len run mag : Nat) (neg : Bool) (s : State) :
    AcEffect s (acVlcItem len run mag neg s) (consumePieces len ++ [1]) run (signedLevel neg mag) :=
  advanceStore_effect run _ (consumeItem_touches _ s) (consumeItem_consumes _ s)

/-- An AC_VLC item of a code of at most 16 bits (R192). -/
theorem acVlcItem_effect {len : Nat} (h : len ≤ 16) (run mag : Nat) (neg : Bool) (s : State) :
    AcEffect s (acVlcItem len run mag neg s) [len, 1] run (signedLevel neg mag) := by
  simpa [consumePieces_le h] using acVlcItem_effect_pieces len run mag neg s

/-- An AC_ESC item of a code of any length (R193). -/
theorem acEscItem_effect_pieces (len : Nat) (run : BitVec 6) (level : BitVec 11) (s : State) :
    AcEffect s (acEscItem len run level s) (consumePieces len ++ [6, 11]) run.toNat level.toInt :=
  advanceStore_effect run.toNat _ (consumeItem_touches _ s) (consumeItem_consumes _ s)

/-- An AC_ESC item of a code of at most 16 bits (R193). -/
theorem acEscItem_effect {len : Nat} (h : len ≤ 16) (run : BitVec 6) (level : BitVec 11) (s : State) :
    AcEffect s (acEscItem len run level s) [len, 6, 11] run.toNat level.toInt := by
  simpa [consumePieces_le h] using acEscItem_effect_pieces len run level s

/-- An AC_EOB item (R194): its Consumes and one entry, and the block's end alone. -/
theorem acEobItem_effect (len : Nat) (s : State) :
    Consumes s (acEobItem len s) (consumePieces len) ∧ CountsEntry s (acEobItem len s)
    ∧ acEobItem len s = { s with
        cursor := (acEobItem len s).cursor, overrunCount := (acEobItem len s).overrunCount,
        entryCount := (acEobItem len s).entryCount, segcapCount := (acEobItem len s).segcapCount,
        stage := .reconstruct } :=
  ⟨consumes_congr (s := s) (t := consumeItem (consumePieces len) s) rfl rfl rfl rfl rfl rfl (consumeItem_consumes _ s),
   countsEntry_of (by simp [acEobItem]) (by simp [acEobItem]),
   by unfold acEobItem; simp only; rw [consumeItem_touches]; rfl⟩

/-- The predictors that a block starts with (R160, R168). -/
theorem blockStart_startPred (s : State) : (blockStart s).pred = startPred s := by
  simp [startPred]

/-- What the DC store adds to a started block whose literal is consumed (R162, R169, R190). -/
theorem dcStore_effect {s u : State} {ws : List Nat} {v : Int} {p : Pred}
    (hu : u = { s with
      level := List.replicate 64 0, k := 0, poisoned := false, pred := p,
      cursor := u.cursor, overrunCount := u.overrunCount })
    (hc : Consumes s u ws) : DcEffect s (dcStore v u) ws v p where
  consumes := consumes_congr (s := s) (t := u) rfl rfl rfl rfl (by simp) (by simp) hc
  counts := countsEntry_of (by rw [hu]; simp) (by rw [hu]; simp)
  level := by rw [hu]; rfl
  k := by rw [hu]; rfl
  poisoned := by rw [hu]; rfl
  qtag := by rw [hu]; rfl
  pred := by rw [hu]; rfl
  stage := by rw [hu]; rfl
  frame := by rw [hu]; rfl

/-- What the Consumes of an item add to a started block. -/
theorem blockStart_consumes (ws : List Nat) (s : State) : Consumes s (consumeItem ws (blockStart s)) ws :=
  consumes_congr (s := blockStart s) rfl rfl rfl rfl rfl rfl (consumeItem_consumes ws (blockStart s))

/-- A DC_FLAT item (R163). -/
theorem dcFlatItem_effect (v : Int) (s : State) : DcEffect s (dcFlatItem v s) [10] v (startPred s) := by
  refine dcStore_effect ?_ (blockStart_consumes [10] s)
  rw [← blockStart_startPred]
  exact consumeItem_touches [10] (blockStart s)

/-- A DC term formed by the predictor of channel `c` (R164, R166). -/
theorem dcPredict_effect (c : Channel) (delta : Int) (ws : List Nat) (s : State) :
    DcEffect s (dcPredict c delta (consumeItem ws (blockStart s))) ws ((startPred s).get c + 4 * delta)
      ((startPred s).set c ((startPred s).get c + 4 * delta)) := by
  unfold dcPredict
  rw [consumeItem_pred, blockStart_startPred]
  refine dcStore_effect ?_ (consumes_congr (t := consumeItem ws (blockStart s)) rfl rfl rfl rfl rfl rfl (blockStart_consumes ws s))
  rw [consumeItem_touches]
  rfl

/-- A DC_PRED item of the candidate (R164, R166). -/
theorem dcPredItem_effect (c : Channel) (len size b : Nat) (s : State) :
    DcEffect s (dcPredItem c len size b s) (len :: if size = 0 then [] else [size])
      ((startPred s).get c + 4 * dcDelta size b)
      ((startPred s).set c ((startPred s).get c + 4 * dcDelta size b)) := by
  have h : (len :: if size = 0 then [] else [size]) = if size = 0 then [len] else [len, size] := by split <;> rfl
  rw [h]
  exact dcPredict_effect c _ _ s

end Sys2Proof.Machine
end

