-- ==== Sys2Proof/Laws/Memory.lean ====
section
/-! SUPPORT. The laws of the IN space: read after write, the canonical form, byte lists and little-endian reads. -/

namespace Sys2Proof.Machine

@[simp] theorem read_nil (a : Nat) : Memory.read [] a = unlistedByte := rfl

/-- In a memory in form from `lo` on, an address below `lo` reads as unlisted. -/
theorem read_below : ∀ {m : Memory} {lo a : Nat}, m.wfFrom lo = true → a < lo → m.read a = unlistedByte
  | [], _, _, _, _ => rfl
  | (x, b) :: m, lo, a, h, hlt => by
    simp only [Memory.wfFrom, Bool.and_eq_true, decide_eq_true_eq] at h
    have : a < x := by omega
    simp [Memory.read, this]

theorem wfFrom_mono : ∀ {m : Memory} {lo lo' : Nat}, m.wfFrom lo = true → lo' ≤ lo → m.wfFrom lo' = true
  | [], _, _, _, _ => rfl
  | (x, b) :: m, lo, lo', h, hle => by
    simp only [Memory.wfFrom, Bool.and_eq_true, decide_eq_true_eq] at h ⊢
    exact ⟨⟨by omega, h.1.2⟩, h.2⟩

/-- A write at or above `lo` keeps the form from `lo` on. -/
theorem wfFrom_write : ∀ {m : Memory} {lo a : Nat} (v : Byte), m.wfFrom lo = true → lo ≤ a →
    (m.write a v).wfFrom lo = true
  | [], lo, a, v, _, hle => by
    unfold Memory.write; split <;> simp_all [Memory.wfFrom]
  | (x, b) :: m, lo, a, v, h, hle => by
    simp only [Memory.wfFrom, Bool.and_eq_true, decide_eq_true_eq] at h
    obtain ⟨⟨hx, hb⟩, hm⟩ := h
    unfold Memory.write
    split
    · split
      · simp [Memory.wfFrom, hx, hb, hm]
      · rename_i hax hv
        simp only [Memory.wfFrom, Bool.and_eq_true, decide_eq_true_eq]
        exact ⟨⟨hle, hv⟩, ⟨by omega, hb⟩, hm⟩
    · split
      · split
        · exact wfFrom_mono hm (by omega)
        · rename_i hv
          subst_vars
          simp only [Memory.wfFrom, Bool.and_eq_true, decide_eq_true_eq]
          exact ⟨⟨hx, hv⟩, hm⟩
      · simp only [Memory.wfFrom, Bool.and_eq_true, decide_eq_true_eq]
        exact ⟨⟨hx, hb⟩, wfFrom_write v hm (by omega)⟩

/-- Every write keeps the canonical form. -/
theorem wf_write {m : Memory} (a : Nat) (v : Byte) (h : m.wf = true) : (m.write a v).wf = true :=
  wfFrom_write v h (Nat.zero_le a)

theorem wf_writeAll : ∀ (b : List Byte) {m : Memory} (a : Nat), m.wf = true → (m.writeAll a b).wf = true
  | [], _, _, h => h
  | _ :: r, _, _, h => wf_writeAll r _ (wf_write _ _ h)

/-- A byte reads as it was written. -/
theorem read_write_same_from : ∀ {m : Memory} {lo : Nat} (a : Nat) (v : Byte), m.wfFrom lo = true →
    (m.write a v).read a = v
  | [], lo, a, v, _ => by
    unfold Memory.write; split <;> simp_all [Memory.read]
  | (x, b) :: m, lo, a, v, h => by
    simp only [Memory.wfFrom, Bool.and_eq_true, decide_eq_true_eq] at h
    obtain ⟨⟨hx, hb⟩, hm⟩ := h
    unfold Memory.write
    split
    · rename_i hax
      split <;> simp_all [Memory.read]
    · rename_i hax
      split
      · rename_i hEq
        split
        · rename_i hv
          rw [hv]; exact read_below hm (by omega)
        · simp [Memory.read, hEq]
      · rename_i hne
        simp only [Memory.read, hax, hne, if_false]
        exact read_write_same_from a v hm

theorem read_write_same {m : Memory} (a : Nat) (v : Byte) (h : m.wf = true) : (m.write a v).read a = v :=
  read_write_same_from a v h

/-- A write leaves every other byte as it was. -/
theorem read_write_other_from : ∀ {m : Memory} {lo : Nat} (a x : Nat) (v : Byte), m.wfFrom lo = true → x ≠ a →
    (m.write a v).read x = m.read x
  | [], lo, a, x, v, _, hne => by
    unfold Memory.write; split
    · rfl
    · simp [Memory.read, hne]
  | (y, b) :: m, lo, a, x, v, h, hne => by
    simp only [Memory.wfFrom, Bool.and_eq_true, decide_eq_true_eq] at h
    obtain ⟨⟨hy, hb⟩, hm⟩ := h
    unfold Memory.write
    split
    · rename_i hay
      split
      · rfl
      · have hxy : x < a → x < y := fun hx => by omega
        by_cases hxa : x < a
        · simp [Memory.read, hxa, hxy hxa]
        · simp [Memory.read, hxa, hne]
    · rename_i hay
      split
      · rename_i hEq
        subst hEq
        split
        · by_cases hxa : x < a
          · rw [read_below hm (by omega)]; simp [Memory.read, hxa]
          · simp [Memory.read, hxa, hne]
        · by_cases hxa : x < a <;> simp [Memory.read, hxa, hne]
      · by_cases hxy : x < y
        · simp [Memory.read, hxy]
        · by_cases hxe : x = y
          · simp [Memory.read, hxe]
          · simp only [Memory.read, hxy, hxe, if_false]
            exact read_write_other_from a x v hm hne

theorem read_write_other {m : Memory} (a x : Nat) (v : Byte) (h : m.wf = true) (hne : x ≠ a) :
    (m.write a v).read x = m.read x := read_write_other_from a x v h hne

@[simp] theorem bytes_length (m : Memory) (a n : Nat) : (m.bytes a n).length = n := by simp [Memory.bytes]

theorem bytes_getD (m : Memory) (a n i : Nat) (h : i < n) : (m.bytes a n).getD i 0 = m.read (a + i) := by
  simp [Memory.bytes, List.getD_eq_getElem?_getD, h]

theorem memRead_two (m : Memory) (a : Nat) :
    m.memRead a 2 = (m.read a).toNat + 256 * (m.read (a + 1)).toNat := by
  simp [Memory.memRead, Memory.bytes, leNat, List.range_succ]

theorem memRead_four (m : Memory) (a : Nat) :
    m.memRead a 4 = (m.read a).toNat + 256 * (m.read (a + 1)).toNat + 65536 * (m.read (a + 2)).toNat
      + 16777216 * (m.read (a + 3)).toNat := by
  simp [Memory.memRead, Memory.bytes, leNat, List.range_succ]; omega

/-- The little-endian value of a field of a byte list read from IN. -/
theorem byteField_bytes (m : Memory) (a n k w : Nat) (h : k + w ≤ n) :
    byteField (m.bytes a n) k w = m.memRead (a + k) w := by
  unfold byteField Memory.memRead
  congr 1
  apply List.ext_getElem
  · simp; omega
  · intro i h1 h2
    simp [Memory.bytes] at *
    congr 1; omega

/-- A 16-bit value in IN is its little-endian read (R72). -/
theorem half_eq (m : Memory) (a : Nat) : half m a = BitVec.ofNat 16 (m.memRead a 2) := by
  apply BitVec.eq_of_toNat_eq
  rw [memRead_two]
  have h0 := (m.read a).isLt
  have h1 := (m.read (a + 1)).isLt
  unfold half
  rw [BitVec.toNat_append, Nat.shiftLeft_eq, BitVec.toNat_ofNat, Nat.mul_comm, ← Nat.two_pow_add_eq_or_of_lt h0]
  omega

/-- The bytes of a region, and no others, are BytesAt it. -/
theorem bytesAt_iff {m : Memory} {a n : Nat} {b : List Byte} : BytesAt m a n b ↔ b = m.bytes a n := by
  constructor
  · intro h
    apply List.ext_getElem
    · simp [h.1]
    · intro i h1 h2
      have := h.2 i (by rw [← h.1]; exact h1)
      rw [List.getD_eq_getElem _ _ h1] at this
      rw [this]
      simp [Memory.bytes]
  · rintro rfl
    exact ⟨by simp, fun i hi => bytes_getD _ _ _ _ hi⟩

end Sys2Proof.Machine
end

