-- ==== Sys2Proof/Laws/PerInstr.lean ====
section
/-! SUPPORT. For every instruction: its encoding has the form and the length of its record format (30_encoding.md R100, with
R105 for the lengths of a DC_PRED item), under every configuration. -/

namespace Sys2Proof.Laws

/-- Code `k` has the form and the length that R100 gives instruction `i`. -/
def HasFormat (i : Instr) (k : Code) : Prop :=
  match i.context, k with
  | .dcFlat, .bits b => b.length = 10
  | .dcLuma, .bits b => 3 ≤ b.length ∧ b.length ≤ 15
  | .dcChroma, .bits b => 2 ≤ b.length ∧ b.length ≤ 16
  | .acItem, .bits b =>
    (i = .eob ∧ b.length = 2) ∨ ((∃ run level, i = .esc run level) ∧ b.length = 23) ∨ (3 ≤ b.length ∧ b.length ≤ 17)
  | .segHdr, .bytes b => b.length = 8
  | .tiled _, .bytes b => b.length = 8
  | .probe, .bytes b => b.length = 2
  | .host, .word _ => True
  | _, _ => False

/-- The family's statement about one instruction. -/
def FormatLength.Statement (i : Instr) : Prop := ∀ c : Config, HasFormat i (encode c i)

/-- An AC_VLC item: a code of 2 to 16 bits and a sign bit (R107). -/
theorem hasFormat_row {i : Instr} {n v : Nat} {neg : Bool} (hx : i.context = .acItem) (hn : 2 ≤ n) (hn' : n ≤ 16) :
    HasFormat i (.bits (natBits n v ++ [neg])) := by
  unfold HasFormat
  rw [hx]
  have h : (natBits n v ++ [neg]).length = n + 1 := by simp [natBits_length]
  exact Or.inr (Or.inr ⟨by omega, by omega⟩)

theorem FormatLength.acR0L1 (neg : Bool) : FormatLength.Statement (.acR0L1 neg) := fun _ =>
  hasFormat_row (n := 2) rfl (by decide) (by decide)
theorem FormatLength.acR1L1 (neg : Bool) : FormatLength.Statement (.acR1L1 neg) := fun _ =>
  hasFormat_row (n := 3) rfl (by decide) (by decide)
theorem FormatLength.acR0L2 (neg : Bool) : FormatLength.Statement (.acR0L2 neg) := fun _ =>
  hasFormat_row (n := 4) rfl (by decide) (by decide)
theorem FormatLength.acR2L1 (neg : Bool) : FormatLength.Statement (.acR2L1 neg) := fun _ =>
  hasFormat_row (n := 4) rfl (by decide) (by decide)
theorem FormatLength.acR0L3 (neg : Bool) : FormatLength.Statement (.acR0L3 neg) := fun _ =>
  hasFormat_row (n := 5) rfl (by decide) (by decide)
theorem FormatLength.acR3L1 (neg : Bool) : FormatLength.Statement (.acR3L1 neg) := fun _ =>
  hasFormat_row (n := 5) rfl (by decide) (by decide)
theorem FormatLength.acR4L1 (neg : Bool) : FormatLength.Statement (.acR4L1 neg) := fun _ =>
  hasFormat_row (n := 5) rfl (by decide) (by decide)
theorem FormatLength.acR1L2 (neg : Bool) : FormatLength.Statement (.acR1L2 neg) := fun _ =>
  hasFormat_row (n := 6) rfl (by decide) (by decide)
theorem FormatLength.acR5L1 (neg : Bool) : FormatLength.Statement (.acR5L1 neg) := fun _ =>
  hasFormat_row (n := 6) rfl (by decide) (by decide)
theorem FormatLength.acR6L1 (neg : Bool) : FormatLength.Statement (.acR6L1 neg) := fun _ =>
  hasFormat_row (n := 6) rfl (by decide) (by decide)
theorem FormatLength.acR7L1 (neg : Bool) : FormatLength.Statement (.acR7L1 neg) := fun _ =>
  hasFormat_row (n := 6) rfl (by decide) (by decide)
theorem FormatLength.acR0L4 (neg : Bool) : FormatLength.Statement (.acR0L4 neg) := fun _ =>
  hasFormat_row (n := 7) rfl (by decide) (by decide)
theorem FormatLength.acR2L2 (neg : Bool) : FormatLength.Statement (.acR2L2 neg) := fun _ =>
  hasFormat_row (n := 7) rfl (by decide) (by decide)
theorem FormatLength.acR8L1 (neg : Bool) : FormatLength.Statement (.acR8L1 neg) := fun _ =>
  hasFormat_row (n := 7) rfl (by decide) (by decide)
theorem FormatLength.acR9L1 (neg : Bool) : FormatLength.Statement (.acR9L1 neg) := fun _ =>
  hasFormat_row (n := 7) rfl (by decide) (by decide)
theorem FormatLength.acR0L5 (neg : Bool) : FormatLength.Statement (.acR0L5 neg) := fun _ =>
  hasFormat_row (n := 8) rfl (by decide) (by decide)
theorem FormatLength.acR0L6 (neg : Bool) : FormatLength.Statement (.acR0L6 neg) := fun _ =>
  hasFormat_row (n := 8) rfl (by decide) (by decide)
theorem FormatLength.acR1L3 (neg : Bool) : FormatLength.Statement (.acR1L3 neg) := fun _ =>
  hasFormat_row (n := 8) rfl (by decide) (by decide)
theorem FormatLength.acR3L2 (neg : Bool) : FormatLength.Statement (.acR3L2 neg) := fun _ =>
  hasFormat_row (n := 8) rfl (by decide) (by decide)
theorem FormatLength.acR10L1 (neg : Bool) : FormatLength.Statement (.acR10L1 neg) := fun _ =>
  hasFormat_row (n := 8) rfl (by decide) (by decide)
theorem FormatLength.acR11L1 (neg : Bool) : FormatLength.Statement (.acR11L1 neg) := fun _ =>
  hasFormat_row (n := 8) rfl (by decide) (by decide)
theorem FormatLength.acR12L1 (neg : Bool) : FormatLength.Statement (.acR12L1 neg) := fun _ =>
  hasFormat_row (n := 8) rfl (by decide) (by decide)
theorem FormatLength.acR13L1 (neg : Bool) : FormatLength.Statement (.acR13L1 neg) := fun _ =>
  hasFormat_row (n := 8) rfl (by decide) (by decide)
theorem FormatLength.acR0L7 (neg : Bool) : FormatLength.Statement (.acR0L7 neg) := fun _ =>
  hasFormat_row (n := 10) rfl (by decide) (by decide)
theorem FormatLength.acR1L4 (neg : Bool) : FormatLength.Statement (.acR1L4 neg) := fun _ =>
  hasFormat_row (n := 10) rfl (by decide) (by decide)
theorem FormatLength.acR2L3 (neg : Bool) : FormatLength.Statement (.acR2L3 neg) := fun _ =>
  hasFormat_row (n := 10) rfl (by decide) (by decide)
theorem FormatLength.acR4L2 (neg : Bool) : FormatLength.Statement (.acR4L2 neg) := fun _ =>
  hasFormat_row (n := 10) rfl (by decide) (by decide)
theorem FormatLength.acR5L2 (neg : Bool) : FormatLength.Statement (.acR5L2 neg) := fun _ =>
  hasFormat_row (n := 10) rfl (by decide) (by decide)
theorem FormatLength.acR14L1 (neg : Bool) : FormatLength.Statement (.acR14L1 neg) := fun _ =>
  hasFormat_row (n := 10) rfl (by decide) (by decide)
theorem FormatLength.acR15L1 (neg : Bool) : FormatLength.Statement (.acR15L1 neg) := fun _ =>
  hasFormat_row (n := 10) rfl (by decide) (by decide)
theorem FormatLength.acR16L1 (neg : Bool) : FormatLength.Statement (.acR16L1 neg) := fun _ =>
  hasFormat_row (n := 10) rfl (by decide) (by decide)
theorem FormatLength.acR0L8 (neg : Bool) : FormatLength.Statement (.acR0L8 neg) := fun _ =>
  hasFormat_row (n := 12) rfl (by decide) (by decide)
theorem FormatLength.acR0L9 (neg : Bool) : FormatLength.Statement (.acR0L9 neg) := fun _ =>
  hasFormat_row (n := 12) rfl (by decide) (by decide)
theorem FormatLength.acR0L10 (neg : Bool) : FormatLength.Statement (.acR0L10 neg) := fun _ =>
  hasFormat_row (n := 12) rfl (by decide) (by decide)
theorem FormatLength.acR0L11 (neg : Bool) : FormatLength.Statement (.acR0L11 neg) := fun _ =>
  hasFormat_row (n := 12) rfl (by decide) (by decide)
theorem FormatLength.acR1L5 (neg : Bool) : FormatLength.Statement (.acR1L5 neg) := fun _ =>
  hasFormat_row (n := 12) rfl (by decide) (by decide)
theorem FormatLength.acR2L4 (neg : Bool) : FormatLength.Statement (.acR2L4 neg) := fun _ =>
  hasFormat_row (n := 12) rfl (by decide) (by decide)
theorem FormatLength.acR3L3 (neg : Bool) : FormatLength.Statement (.acR3L3 neg) := fun _ =>
  hasFormat_row (n := 12) rfl (by decide) (by decide)
theorem FormatLength.acR4L3 (neg : Bool) : FormatLength.Statement (.acR4L3 neg) := fun _ =>
  hasFormat_row (n := 12) rfl (by decide) (by decide)
theorem FormatLength.acR6L2 (neg : Bool) : FormatLength.Statement (.acR6L2 neg) := fun _ =>
  hasFormat_row (n := 12) rfl (by decide) (by decide)
theorem FormatLength.acR7L2 (neg : Bool) : FormatLength.Statement (.acR7L2 neg) := fun _ =>
  hasFormat_row (n := 12) rfl (by decide) (by decide)
theorem FormatLength.acR8L2 (neg : Bool) : FormatLength.Statement (.acR8L2 neg) := fun _ =>
  hasFormat_row (n := 12) rfl (by decide) (by decide)
theorem FormatLength.acR17L1 (neg : Bool) : FormatLength.Statement (.acR17L1 neg) := fun _ =>
  hasFormat_row (n := 12) rfl (by decide) (by decide)
theorem FormatLength.acR18L1 (neg : Bool) : FormatLength.Statement (.acR18L1 neg) := fun _ =>
  hasFormat_row (n := 12) rfl (by decide) (by decide)
theorem FormatLength.acR19L1 (neg : Bool) : FormatLength.Statement (.acR19L1 neg) := fun _ =>
  hasFormat_row (n := 12) rfl (by decide) (by decide)
theorem FormatLength.acR20L1 (neg : Bool) : FormatLength.Statement (.acR20L1 neg) := fun _ =>
  hasFormat_row (n := 12) rfl (by decide) (by decide)
theorem FormatLength.acR21L1 (neg : Bool) : FormatLength.Statement (.acR21L1 neg) := fun _ =>
  hasFormat_row (n := 12) rfl (by decide) (by decide)
theorem FormatLength.acR0L12 (neg : Bool) : FormatLength.Statement (.acR0L12 neg) := fun _ =>
  hasFormat_row (n := 13) rfl (by decide) (by decide)
theorem FormatLength.acR0L13 (neg : Bool) : FormatLength.Statement (.acR0L13 neg) := fun _ =>
  hasFormat_row (n := 13) rfl (by decide) (by decide)
theorem FormatLength.acR0L14 (neg : Bool) : FormatLength.Statement (.acR0L14 neg) := fun _ =>
  hasFormat_row (n := 13) rfl (by decide) (by decide)
theorem FormatLength.acR0L15 (neg : Bool) : FormatLength.Statement (.acR0L15 neg) := fun _ =>
  hasFormat_row (n := 13) rfl (by decide) (by decide)
theorem FormatLength.acR1L6 (neg : Bool) : FormatLength.Statement (.acR1L6 neg) := fun _ =>
  hasFormat_row (n := 13) rfl (by decide) (by decide)
theorem FormatLength.acR1L7 (neg : Bool) : FormatLength.Statement (.acR1L7 neg) := fun _ =>
  hasFormat_row (n := 13) rfl (by decide) (by decide)
theorem FormatLength.acR2L5 (neg : Bool) : FormatLength.Statement (.acR2L5 neg) := fun _ =>
  hasFormat_row (n := 13) rfl (by decide) (by decide)
theorem FormatLength.acR3L4 (neg : Bool) : FormatLength.Statement (.acR3L4 neg) := fun _ =>
  hasFormat_row (n := 13) rfl (by decide) (by decide)
theorem FormatLength.acR5L3 (neg : Bool) : FormatLength.Statement (.acR5L3 neg) := fun _ =>
  hasFormat_row (n := 13) rfl (by decide) (by decide)
theorem FormatLength.acR9L2 (neg : Bool) : FormatLength.Statement (.acR9L2 neg) := fun _ =>
  hasFormat_row (n := 13) rfl (by decide) (by decide)
theorem FormatLength.acR10L2 (neg : Bool) : FormatLength.Statement (.acR10L2 neg) := fun _ =>
  hasFormat_row (n := 13) rfl (by decide) (by decide)
theorem FormatLength.acR22L1 (neg : Bool) : FormatLength.Statement (.acR22L1 neg) := fun _ =>
  hasFormat_row (n := 13) rfl (by decide) (by decide)
theorem FormatLength.acR23L1 (neg : Bool) : FormatLength.Statement (.acR23L1 neg) := fun _ =>
  hasFormat_row (n := 13) rfl (by decide) (by decide)
theorem FormatLength.acR24L1 (neg : Bool) : FormatLength.Statement (.acR24L1 neg) := fun _ =>
  hasFormat_row (n := 13) rfl (by decide) (by decide)
theorem FormatLength.acR25L1 (neg : Bool) : FormatLength.Statement (.acR25L1 neg) := fun _ =>
  hasFormat_row (n := 13) rfl (by decide) (by decide)
theorem FormatLength.acR26L1 (neg : Bool) : FormatLength.Statement (.acR26L1 neg) := fun _ =>
  hasFormat_row (n := 13) rfl (by decide) (by decide)
theorem FormatLength.acR0L16 (neg : Bool) : FormatLength.Statement (.acR0L16 neg) := fun _ =>
  hasFormat_row (n := 14) rfl (by decide) (by decide)
theorem FormatLength.acR0L17 (neg : Bool) : FormatLength.Statement (.acR0L17 neg) := fun _ =>
  hasFormat_row (n := 14) rfl (by decide) (by decide)
theorem FormatLength.acR0L18 (neg : Bool) : FormatLength.Statement (.acR0L18 neg) := fun _ =>
  hasFormat_row (n := 14) rfl (by decide) (by decide)
theorem FormatLength.acR0L19 (neg : Bool) : FormatLength.Statement (.acR0L19 neg) := fun _ =>
  hasFormat_row (n := 14) rfl (by decide) (by decide)
theorem FormatLength.acR0L20 (neg : Bool) : FormatLength.Statement (.acR0L20 neg) := fun _ =>
  hasFormat_row (n := 14) rfl (by decide) (by decide)
theorem FormatLength.acR0L21 (neg : Bool) : FormatLength.Statement (.acR0L21 neg) := fun _ =>
  hasFormat_row (n := 14) rfl (by decide) (by decide)
theorem FormatLength.acR0L22 (neg : Bool) : FormatLength.Statement (.acR0L22 neg) := fun _ =>
  hasFormat_row (n := 14) rfl (by decide) (by decide)
theorem FormatLength.acR0L23 (neg : Bool) : FormatLength.Statement (.acR0L23 neg) := fun _ =>
  hasFormat_row (n := 14) rfl (by decide) (by decide)
theorem FormatLength.acR0L24 (neg : Bool) : FormatLength.Statement (.acR0L24 neg) := fun _ =>
  hasFormat_row (n := 14) rfl (by decide) (by decide)
theorem FormatLength.acR0L25 (neg : Bool) : FormatLength.Statement (.acR0L25 neg) := fun _ =>
  hasFormat_row (n := 14) rfl (by decide) (by decide)
theorem FormatLength.acR0L26 (neg : Bool) : FormatLength.Statement (.acR0L26 neg) := fun _ =>
  hasFormat_row (n := 14) rfl (by decide) (by decide)
theorem FormatLength.acR0L27 (neg : Bool) : FormatLength.Statement (.acR0L27 neg) := fun _ =>
  hasFormat_row (n := 14) rfl (by decide) (by decide)
theorem FormatLength.acR0L28 (neg : Bool) : FormatLength.Statement (.acR0L28 neg) := fun _ =>
  hasFormat_row (n := 14) rfl (by decide) (by decide)
theorem FormatLength.acR0L29 (neg : Bool) : FormatLength.Statement (.acR0L29 neg) := fun _ =>
  hasFormat_row (n := 14) rfl (by decide) (by decide)
theorem FormatLength.acR0L30 (neg : Bool) : FormatLength.Statement (.acR0L30 neg) := fun _ =>
  hasFormat_row (n := 14) rfl (by decide) (by decide)
theorem FormatLength.acR0L31 (neg : Bool) : FormatLength.Statement (.acR0L31 neg) := fun _ =>
  hasFormat_row (n := 14) rfl (by decide) (by decide)
theorem FormatLength.acR0L32 (neg : Bool) : FormatLength.Statement (.acR0L32 neg) := fun _ =>
  hasFormat_row (n := 15) rfl (by decide) (by decide)
theorem FormatLength.acR0L33 (neg : Bool) : FormatLength.Statement (.acR0L33 neg) := fun _ =>
  hasFormat_row (n := 15) rfl (by decide) (by decide)
theorem FormatLength.acR0L34 (neg : Bool) : FormatLength.Statement (.acR0L34 neg) := fun _ =>
  hasFormat_row (n := 15) rfl (by decide) (by decide)
theorem FormatLength.acR0L35 (neg : Bool) : FormatLength.Statement (.acR0L35 neg) := fun _ =>
  hasFormat_row (n := 15) rfl (by decide) (by decide)
theorem FormatLength.acR0L36 (neg : Bool) : FormatLength.Statement (.acR0L36 neg) := fun _ =>
  hasFormat_row (n := 15) rfl (by decide) (by decide)
theorem FormatLength.acR0L37 (neg : Bool) : FormatLength.Statement (.acR0L37 neg) := fun _ =>
  hasFormat_row (n := 15) rfl (by decide) (by decide)
theorem FormatLength.acR0L38 (neg : Bool) : FormatLength.Statement (.acR0L38 neg) := fun _ =>
  hasFormat_row (n := 15) rfl (by decide) (by decide)
theorem FormatLength.acR0L39 (neg : Bool) : FormatLength.Statement (.acR0L39 neg) := fun _ =>
  hasFormat_row (n := 15) rfl (by decide) (by decide)
theorem FormatLength.acR0L40 (neg : Bool) : FormatLength.Statement (.acR0L40 neg) := fun _ =>
  hasFormat_row (n := 15) rfl (by decide) (by decide)
theorem FormatLength.acR1L8 (neg : Bool) : FormatLength.Statement (.acR1L8 neg) := fun _ =>
  hasFormat_row (n := 15) rfl (by decide) (by decide)
theorem FormatLength.acR1L9 (neg : Bool) : FormatLength.Statement (.acR1L9 neg) := fun _ =>
  hasFormat_row (n := 15) rfl (by decide) (by decide)
theorem FormatLength.acR1L10 (neg : Bool) : FormatLength.Statement (.acR1L10 neg) := fun _ =>
  hasFormat_row (n := 15) rfl (by decide) (by decide)
theorem FormatLength.acR1L11 (neg : Bool) : FormatLength.Statement (.acR1L11 neg) := fun _ =>
  hasFormat_row (n := 15) rfl (by decide) (by decide)
theorem FormatLength.acR1L12 (neg : Bool) : FormatLength.Statement (.acR1L12 neg) := fun _ =>
  hasFormat_row (n := 15) rfl (by decide) (by decide)
theorem FormatLength.acR1L13 (neg : Bool) : FormatLength.Statement (.acR1L13 neg) := fun _ =>
  hasFormat_row (n := 15) rfl (by decide) (by decide)
theorem FormatLength.acR1L14 (neg : Bool) : FormatLength.Statement (.acR1L14 neg) := fun _ =>
  hasFormat_row (n := 15) rfl (by decide) (by decide)
theorem FormatLength.acR1L15 (neg : Bool) : FormatLength.Statement (.acR1L15 neg) := fun _ =>
  hasFormat_row (n := 16) rfl (by decide) (by decide)
theorem FormatLength.acR1L16 (neg : Bool) : FormatLength.Statement (.acR1L16 neg) := fun _ =>
  hasFormat_row (n := 16) rfl (by decide) (by decide)
theorem FormatLength.acR1L17 (neg : Bool) : FormatLength.Statement (.acR1L17 neg) := fun _ =>
  hasFormat_row (n := 16) rfl (by decide) (by decide)
theorem FormatLength.acR1L18 (neg : Bool) : FormatLength.Statement (.acR1L18 neg) := fun _ =>
  hasFormat_row (n := 16) rfl (by decide) (by decide)
theorem FormatLength.acR6L3 (neg : Bool) : FormatLength.Statement (.acR6L3 neg) := fun _ =>
  hasFormat_row (n := 16) rfl (by decide) (by decide)
theorem FormatLength.acR11L2 (neg : Bool) : FormatLength.Statement (.acR11L2 neg) := fun _ =>
  hasFormat_row (n := 16) rfl (by decide) (by decide)
theorem FormatLength.acR12L2 (neg : Bool) : FormatLength.Statement (.acR12L2 neg) := fun _ =>
  hasFormat_row (n := 16) rfl (by decide) (by decide)
theorem FormatLength.acR13L2 (neg : Bool) : FormatLength.Statement (.acR13L2 neg) := fun _ =>
  hasFormat_row (n := 16) rfl (by decide) (by decide)
theorem FormatLength.acR14L2 (neg : Bool) : FormatLength.Statement (.acR14L2 neg) := fun _ =>
  hasFormat_row (n := 16) rfl (by decide) (by decide)
theorem FormatLength.acR15L2 (neg : Bool) : FormatLength.Statement (.acR15L2 neg) := fun _ =>
  hasFormat_row (n := 16) rfl (by decide) (by decide)
theorem FormatLength.acR16L2 (neg : Bool) : FormatLength.Statement (.acR16L2 neg) := fun _ =>
  hasFormat_row (n := 16) rfl (by decide) (by decide)
theorem FormatLength.acR27L1 (neg : Bool) : FormatLength.Statement (.acR27L1 neg) := fun _ =>
  hasFormat_row (n := 16) rfl (by decide) (by decide)
theorem FormatLength.acR28L1 (neg : Bool) : FormatLength.Statement (.acR28L1 neg) := fun _ =>
  hasFormat_row (n := 16) rfl (by decide) (by decide)
theorem FormatLength.acR29L1 (neg : Bool) : FormatLength.Statement (.acR29L1 neg) := fun _ =>
  hasFormat_row (n := 16) rfl (by decide) (by decide)
theorem FormatLength.acR30L1 (neg : Bool) : FormatLength.Statement (.acR30L1 neg) := fun _ =>
  hasFormat_row (n := 16) rfl (by decide) (by decide)
theorem FormatLength.acR31L1 (neg : Bool) : FormatLength.Statement (.acR31L1 neg) := fun _ =>
  hasFormat_row (n := 16) rfl (by decide) (by decide)
theorem FormatLength.esc (run : BitVec 6) (level : BitVec 11) : FormatLength.Statement (.esc run level) := fun _ =>
  Or.inr (Or.inl ⟨⟨run, level, rfl⟩, rfl⟩)
theorem FormatLength.eob : FormatLength.Statement .eob := fun _ => Or.inl ⟨rfl, rfl⟩
theorem FormatLength.dcf (d : BitVec 10) : FormatLength.Statement (.dcf d) := fun _ => rfl
theorem FormatLength.dcy0 : FormatLength.Statement .dcy0 := fun _ => ⟨by simp, by simp⟩
theorem FormatLength.dcy1 (b : BitVec 1) : FormatLength.Statement (.dcy1 b) := fun _ => ⟨by simp, by simp⟩
theorem FormatLength.dcy2 (b : BitVec 2) : FormatLength.Statement (.dcy2 b) := fun _ => ⟨by simp, by simp⟩
theorem FormatLength.dcy3 (b : BitVec 3) : FormatLength.Statement (.dcy3 b) := fun _ => ⟨by simp, by simp⟩
theorem FormatLength.dcy4 (b : BitVec 4) : FormatLength.Statement (.dcy4 b) := fun _ => ⟨by simp, by simp⟩
theorem FormatLength.dcy5 (b : BitVec 5) : FormatLength.Statement (.dcy5 b) := fun _ => ⟨by simp, by simp⟩
theorem FormatLength.dcy6 (b : BitVec 6) : FormatLength.Statement (.dcy6 b) := fun _ => ⟨by simp, by simp⟩
theorem FormatLength.dcy7 (b : BitVec 7) : FormatLength.Statement (.dcy7 b) := fun _ => ⟨by simp, by simp⟩
theorem FormatLength.dcy8 (b : BitVec 8) : FormatLength.Statement (.dcy8 b) := fun _ => ⟨by simp, by simp⟩
theorem FormatLength.dcc0 : FormatLength.Statement .dcc0 := fun _ => ⟨by simp, by simp⟩
theorem FormatLength.dcc1 (b : BitVec 1) : FormatLength.Statement (.dcc1 b) := fun _ => ⟨by simp, by simp⟩
theorem FormatLength.dcc2 (b : BitVec 2) : FormatLength.Statement (.dcc2 b) := fun _ => ⟨by simp, by simp⟩
theorem FormatLength.dcc3 (b : BitVec 3) : FormatLength.Statement (.dcc3 b) := fun _ => ⟨by simp, by simp⟩
theorem FormatLength.dcc4 (b : BitVec 4) : FormatLength.Statement (.dcc4 b) := fun _ => ⟨by simp, by simp⟩
theorem FormatLength.dcc5 (b : BitVec 5) : FormatLength.Statement (.dcc5 b) := fun _ => ⟨by simp, by simp⟩
theorem FormatLength.dcc6 (b : BitVec 6) : FormatLength.Statement (.dcc6 b) := fun _ => ⟨by simp, by simp⟩
theorem FormatLength.dcc7 (b : BitVec 7) : FormatLength.Statement (.dcc7 b) := fun _ => ⟨by simp, by simp⟩
theorem FormatLength.dcc8 (b : BitVec 8) : FormatLength.Statement (.dcc8 b) := fun _ => ⟨by simp, by simp⟩
theorem FormatLength.segHdr (length typeId quant version : Half) : FormatLength.Statement (.segHdr length typeId quant version) :=
  fun _ => rfl
theorem FormatLength.tiledTex (magic typ : Word) : FormatLength.Statement (.tiledTex magic typ) := fun _ => rfl
theorem FormatLength.rawChunk : FormatLength.Statement .rawChunk := fun _ => rfl
theorem FormatLength.texPrefix (p : Half) : FormatLength.Statement (.texPrefix p) := fun _ => rfl
theorem FormatLength.start (mode reorg srcErr : Bool) : FormatLength.Statement (.start mode reorg srcErr) := fun _ => trivial
theorem FormatLength.ctrlSet (mode reorg srcErr : Bool) : FormatLength.Statement (.ctrlSet mode reorg srcErr) := fun _ => trivial

end Sys2Proof.Laws
end

