-- ==== Sys2Proof/Laws/Reconstruct.lean ====
section
/-! SUPPORT. The block reconstructor: the clamps, the scatter by ZIGZAG, and the ranges of what it writes. -/

namespace Sys2Proof.Machine

/-- clamp as a maximum and a minimum (R10). -/
theorem clamp_eq (v lo hi : Int) (h : lo ≤ hi) : clamp v lo hi = max lo (min hi v) := by
  unfold clamp
  split
  · omega
  · split <;> omega

/-- A clamped value lies between the bounds (R10). -/
theorem clamp_range (v lo hi : Int) (h : lo ≤ hi) : lo ≤ clamp v lo hi ∧ clamp v lo hi ≤ hi := by
  unfold clamp
  split
  · omega
  · split <;> omega

theorem deZigzagFrom_length : ∀ (o : List Nat) (r f : List Int), (deZigzagFrom o r f).length = f.length
  | [], _, _ => by simp [deZigzagFrom]
  | _ :: _, [], _ => by simp [deZigzagFrom]
  | p :: o, v :: r, f => by rw [deZigzagFrom, deZigzagFrom_length]; simp

/-- A position that the order does not name stays. -/
theorem deZigzagFrom_other : ∀ (o : List Nat) (r f : List Int) (x : Nat), x ∉ o →
    (deZigzagFrom o r f).getD x 0 = f.getD x 0
  | [], _, _, _, _ => by simp [deZigzagFrom]
  | _ :: _, [], _, _, _ => by simp [deZigzagFrom]
  | p :: o, v :: r, f, x, h => by
    rw [deZigzagFrom, deZigzagFrom_other o r _ x (fun h' => h (by simp [h']))]
    have : p ≠ x := fun e => h (by simp [e])
    simp [List.getD_eq_getElem?_getD, List.getElem?_set_ne this]

/-- The sum of IDCT_1D over eight terms (R225). -/
theorem dot_eight (a x : List Int) (ha : a.length = 8) (hx : x.length = 8) :
    dot a x = ((List.range 8).map fun u => a.getD u 0 * x.getD u 0).sum := by
  rcases a with _ | ⟨a0, _ | ⟨a1, _ | ⟨a2, _ | ⟨a3, _ | ⟨a4, _ | ⟨a5, _ | ⟨a6, _ | ⟨a7, _ | ⟨a8, a⟩⟩⟩⟩⟩⟩⟩⟩⟩ <;>
    simp at ha
  rcases x with _ | ⟨x0, _ | ⟨x1, _ | ⟨x2, _ | ⟨x3, _ | ⟨x4, _ | ⟨x5, _ | ⟨x6, _ | ⟨x7, _ | ⟨x8, x⟩⟩⟩⟩⟩⟩⟩⟩⟩ <;>
    simp at hx
  simp [dot, List.range_succ]
  try ring

theorem slice8_getD (f : List Int) (a b u : Nat) (h : u < 8) : (slice8 f a b).getD u 0 = f.getD (a + b * u) 0 := by
  unfold slice8
  rw [List.getD_eq_getElem _ _ (by simpa using h)]
  simp

/-- A poisoned block's free samples lie in the channel's range (R234, R44). -/
theorem drawBlock_samplesOk (ch : Channel) (n : Nat) : samplesOk ch (drawBlock ch n) := by
  refine ⟨by simp [drawBlock], ?_⟩
  intro v hv
  simp only [drawBlock, List.mem_map] at hv
  obtain ⟨i, _, rfl⟩ := hv
  have h0 := (Config.freeSample (n + i)).isLt
  have h1 := BitVec.toInt_lt (x := Config.freeSample (n + i))
  have h2 := BitVec.le_toInt (x := Config.freeSample (n + i))
  cases ch <;> simp only [drawSample] at * <;> norm_num at * <;> omega

/-- A reconstructed block's samples lie in the channel's range (R226, R227, R44). -/
theorem blockSamples_samplesOk (c : Config) (ch : Channel) (q : Half) (l : List Int) :
    samplesOk ch (blockSamples c ch q l) := by
  refine ⟨by simp [blockSamples, idct2d, columnPass], ?_⟩
  intro v hv
  simp only [blockSamples, List.mem_map] at hv
  obtain ⟨f, _, rfl⟩ := hv
  cases ch <;> exact clamp_range _ _ _ (by decide)

end Sys2Proof.Machine
end

