-- ==== Sys2Proof/Laws/Step.lean ====
section
/-! SUPPORT. Once for all: what one step can do. Every next state of a step is one of the moves of `Move`, with the phase
and stage it is taken in; an invariant of every step is a case split over them. -/

namespace Sys2Proof.Machine

/-- The moves of the machine from `s`, on the state `popHost s` whose turn is taken off. -/
inductive Move (s : State) : State → Prop
  /-- Nothing is enabled, or a CTRL write while busy. -/
  | stay : Move s (popHost s)
  | start (m r e : Bool) (hb : s.status.busy = false) : Move s (startRun m r e (popHost s))
  | control (m r e : Bool) (hb : s.status.busy = false) : Move s (setControl m r e (popHost s))
  | regWrite (off : Nat) (v : Word) : Move s (writeRegister off v (popHost s))
  | regRead (off : Nat) : Move s { popHost s with readData := readRegister (popHost s) off }
  | accept (ha : turn s = .host .accept) (hh : s.status.hold = true) : Move s (acceptArtifact (popHost s))
  | inWrite (a : Nat) (b : Byte) (ht : turn s = .host (.inWrite a b)) (hb : s.status.busy = false)
      (ha : a < s.cfg.inMax) : Move s { popHost s with mem := s.mem.write a b }
  | reset (ht : turn s = .host .reset) : Move s (resetState (popHost s))
  | startCheck (ht : EngineTurn s) (hp : s.phase = .startCheck) : Move s (startCheck (popHost s))
  | endOfInput (ht : EngineTurn s) (hp : s.phase = .tiled ∨ s.phase = .segHdr) :
      Move s (runEnd .endOfInput (popHost s))
  | formatMismatch (ht : EngineTurn s) (hp : s.phase = .segHdr) : Move s (runEnd .formatMismatch (popHost s))
  | header (l y q v : Half) (ht : EngineTurn s) (hp : s.phase = .segHdr) : Move s (loadHeader l y q v (popHost s))
  | texture (ht : EngineTurn s) (hp : s.phase = .tiled) : Move s (handOverTexture (popHost s))
  | image (ht : EngineTurn s) (hp : s.phase = .tiled) (hn : s.cur + 163840 ≤ s.inLen.toNat) :
      Move s (handOverImage (popHost s))
  | unknown (ht : EngineTurn s) (hp : s.phase = .tiled) : Move s (handOverUnknown (popHost s))
  | advance (ht : EngineTurn s) (hp : s.phase = .tiled) : Move s (advanceChunk (popHost s))
  | terminal (ht : EngineTurn s) (hp : s.phase = .tiled) : Move s (runEnd .terminalChunk (popHost s))
  | segmentInit (ht : EngineTurn s) (hp : s.phase = .segDecode) (hs : s.stage.afterInit = false) :
      Move s (segmentInit (popHost s))
  | dcFlat (v : Int) (ht : EngineTurn s) (hp : s.phase = .segDecode) (hs : s.stage = .dcItem) :
      Move s (dcFlatItem v (popHost s))
  | dcPred (c : Channel) (len size b : Nat) (hl : len ≤ 16) (hz : size ≤ 16) (ht : EngineTurn s)
      (hp : s.phase = .segDecode) (hs : s.stage = .dcItem) : Move s (dcPredItem c len size b (popHost s))
  | dcTable (delta : Int) (len : Nat) (ht : EngineTurn s) (hp : s.phase = .segDecode) (hs : s.stage = .dcItem) :
      Move s (dcCodeItem s.channel delta len (popHost s))
  | dcMismatch (ht : EngineTurn s) (hp : s.phase = .segDecode) (hs : s.stage = .dcItem) :
      Move s (vlcMismatch (blockStart (popHost s)))
  | acRow (len run mag : Nat) (neg : Bool) (ht : EngineTurn s) (hp : s.phase = .segDecode) (hs : s.stage = .acItem) :
      Move s (acVlcItem len run mag neg (popHost s))
  | acEscape (len : Nat) (run : BitVec 6) (level : BitVec 11) (ht : EngineTurn s) (hp : s.phase = .segDecode)
      (hs : s.stage = .acItem) : Move s (acEscItem len run level (popHost s))
  | acEnd (len : Nat) (ht : EngineTurn s) (hp : s.phase = .segDecode) (hs : s.stage = .acItem) :
      Move s (acEobItem len (popHost s))
  | acMismatch (ht : EngineTurn s) (hp : s.phase = .segDecode) (hs : s.stage = .acItem) :
      Move s (vlcMismatch (popHost s))
  | reconstruct (ht : EngineTurn s) (hp : s.phase = .segDecode) (hs : s.stage = .reconstruct) :
      Move s (reconstructStep (popHost s))
  | mergePlace (ht : EngineTurn s) (hp : s.phase = .segDecode) (hs : s.stage = .mergePlace) :
      Move s (mergePlaceStep (popHost s))
  | emitFrame (ht : EngineTurn s) (hp : s.phase = .segDecode) (hs : s.stage = .emitFrame) :
      Move s (emitFrameStep (popHost s))
  | toProbe (ht : EngineTurn s) (hp : s.phase = .segDecode) (hs : s.stage = .toProbe) : Move s (toProbe (popHost s))
  | probe (ht : EngineTurn s) (hp : s.phase = .segProbe) :
      Move s (nextSegment (textureRecord (probeOffset (popHost s)) (popHost s)))
  | noTexture (ht : EngineTurn s) (hp : s.phase = .segProbe) : Move s (nextSegment (popHost s))

/-- What the engine fetches, by phase and stage. -/
theorem fetch_engineTurn {s : State} (h : EngineTurn s) : fetch s = fetchEngine s := by
  obtain ⟨ht, hb, hh⟩ := h
  simp [fetch, ht, hb, hh]

/-- The ways a fetch comes about: the host's turn, or the engine's. -/
theorem fetch_cases (s : State) :
    (∃ v, turn s = .host (.regWrite 0 4 v) ∧ fetch s = .instr (decodeHost v))
    ∨ (∃ a, turn s = .host a ∧ fetch s = .host a)
    ∨ (EngineTurn s ∧ fetch s = fetchEngine s)
    ∨ fetch s = .idle := by
  rcases ht : turn s with _ | a
  · by_cases hbh : (s.status.busy && !s.status.hold) = true
    · have : EngineTurn s := by
        simp only [Bool.and_eq_true, Bool.not_eq_true'] at hbh
        exact ⟨ht, hbh.1, hbh.2⟩
      exact Or.inr (Or.inr (Or.inl ⟨this, fetch_engineTurn this⟩))
    · exact Or.inr (Or.inr (Or.inr (by simp [fetch, ht, hbh])))
  · by_cases hv : ∃ v, a = .regWrite 0 4 v
    · obtain ⟨v, rfl⟩ := hv
      exact Or.inl ⟨v, rfl, by simp [fetch, ht]⟩
    · refine Or.inr (Or.inl ⟨a, rfl, ?_⟩)
      unfold fetch
      rw [ht]
      split
      · rename_i h; cases h; exact absurd ⟨_, rfl⟩ hv
      · rename_i h; cases h; rfl
      · rename_i h; cases h

/-- A host action's next states. -/
theorem hostStep_move {s t : State} {a : HostAction} (ht : turn s = .host a) (h : hostStep a (popHost s) = .next t) :
    Move s t := by
  cases a with
  | regWrite off width v =>
    simp only [hostStep] at h
    split at h
    · cases h; exact .regWrite off v
    · cases h
  | regRead off width =>
    simp only [hostStep] at h
    split at h
    · cases h; exact .regRead off
    · cases h
  | accept =>
    simp only [hostStep, popHost_status] at h
    split at h
    · rename_i hh; cases h; exact .accept ht hh
    · cases h
  | inWrite a b =>
    change (if _ then _ else if _ then _ else _) = _ at h
    split at h
    · cases h
    · rename_i hb
      split at h
      · rename_i ha
        cases h
        rw [popHost_mem]
        exact .inWrite a b ht (by simpa using hb) (by simpa using ha)
      · cases h
  | reset => cases h; exact .reset ht
  | engine => cases h; exact .stay

/-- A CTRL write's next states. -/
theorem decodeHost_move {s t : State} {v : Word} (h : exec (decodeHost v) (popHost s) = .next t) : Move s t := by
  unfold decodeHost at h
  split at h
  all_goals
    simp only [exec, execStart, execCtrlSet, popHost_status] at h
    cases hb : s.status.busy <;> simp only [hb, if_true, if_false, Bool.false_eq_true] at h <;> cases h
  · exact .start _ _ _ hb
  · exact .stay
  · exact .control _ _ _ hb
  · exact .stay

/-- An engine step's and an engine instruction's next states. -/
theorem fetchEngine_move {s t : State} (ht : EngineTurn s)
    (h : (∃ i, fetchEngine s = .instr i ∧ exec i (popHost s) = .next t)
      ∨ (∃ e, fetchEngine s = .engine e ∧ t = runEngineStep e (popHost s))
      ∨ (fetchEngine s = .idle ∧ t = popHost s)) : Move s t := by
  have hch : (popHost s).channel = s.channel := by simp [State.channel, State.role]
  rcases hp : s.phase with _ | _ | _ | _ | _ | _ | _
  · simp only [fetchEngine, hp] at h
    rcases h with ⟨i, h, _⟩ | ⟨e, h, _⟩ | ⟨_, rfl⟩
    · cases h
    · cases h
    · exact .stay
  · simp only [fetchEngine, hp] at h
    rcases h with ⟨i, h, _⟩ | ⟨e, h, rfl⟩ | ⟨h, _⟩
    · cases h
    · cases h; exact .startCheck ht hp
    · cases h
  · -- TILED
    have tiled : (∃ i, fetchTiled s = .instr i ∧ exec i (popHost s) = .next t)
        ∨ (∃ e, fetchTiled s = .engine e ∧ t = runEngineStep e (popHost s))
        ∨ (fetchTiled s = .idle ∧ t = popHost s) → Move s t := by
      clear h
      intro h
      unfold fetchTiled at h
      split at h
      · rcases h with ⟨i, h, _⟩ | ⟨e, h, rfl⟩ | ⟨h, _⟩
        · cases h
        · cases h; exact .endOfInput ht (Or.inl hp)
        · cases h
      · rename_i hlt
        generalize hd : decode s.cfg (.tiled (s.inLen.toNat - s.cur)) (.bytes (s.mem.bytes s.cur (min 8 (s.inLen.toNat - s.cur)))) = d at h
        simp only [decode, decodeTiled] at hd
        split at hd
        · split at hd
          · subst hd
            rcases h with ⟨i, h, h'⟩ | ⟨e, h, _⟩ | ⟨h, _⟩
            · cases h; cases h'; exact .texture ht hp
            · cases h
            · cases h
          · subst hd
            rcases h with ⟨i, h, _⟩ | ⟨e, h, rfl⟩ | ⟨h, _⟩
            · cases h
            · cases h; exact Move.unknown ht hp
            · cases h
        · split at hd
          · subst hd
            rename_i hrem
            rcases h with ⟨i, h, h'⟩ | ⟨e, h, _⟩ | ⟨h, _⟩
            · cases h
              have hn : s.cur + 163840 ≤ s.inLen.toNat := by omega
              simp only [exec, execRawChunk, popHost_cur, popHost_inLen, hn, if_true] at h'
              cases h'; exact .image ht hp hn
            · cases h
            · cases h
          · subst hd
            rcases h with ⟨i, h, _⟩ | ⟨e, h, rfl⟩ | ⟨h, _⟩
            · cases h
            · cases h; exact Move.unknown ht hp
            · cases h
    simp only [fetchEngine, hp] at h
    rcases hs : s.stage <;> simp only [hs] at h
    case advance =>
      rcases h with ⟨i, h, _⟩ | ⟨e, h, rfl⟩ | ⟨h, _⟩
      · cases h
      · cases h; exact .advance ht hp
      · cases h
    case terminal =>
      rcases h with ⟨i, h, _⟩ | ⟨e, h, rfl⟩ | ⟨h, _⟩
      · cases h
      · cases h; exact .terminal ht hp
      · cases h
    all_goals exact tiled h
  · -- SEG_HDR
    simp only [fetchEngine, hp, fetchSegHdr] at h
    split at h
    · rcases h with ⟨i, h, _⟩ | ⟨e, h, rfl⟩ | ⟨h, _⟩
      · cases h
      · cases h; exact .endOfInput ht (Or.inr hp)
      · cases h
    · simp only [decode, decodeSegHdr] at h
      split at h
      · rcases h with ⟨i, h, h'⟩ | ⟨e, h, _⟩ | ⟨h, _⟩
        · cases h; cases h'; exact .header _ _ _ _ ht hp
        · cases h
        · cases h
      · rcases h with ⟨i, h, _⟩ | ⟨e, h, rfl⟩ | ⟨h, _⟩
        · cases h
        · cases h; exact .formatMismatch ht hp
        · cases h
  · -- SEG_DECODE
    simp only [fetchEngine, hp, fetchDecode] at h
    rcases hs : s.stage <;> simp only [hs] at h
    case dcItem =>
      rcases hd : decode s.cfg (dcContext s) (.bits (lookahead s)) with i | t' | w <;>
        rw [hd] at h
      · rcases h with ⟨i', h, h'⟩ | ⟨e, h, _⟩ | ⟨h, _⟩
        · cases h
          unfold dcContext at hd
          split at hd
          · simp only [decode] at hd
            cases hd; cases h'; exact .dcFlat _ ht hp hs
          · split at hd
            · obtain ⟨len, size, b, hl, hz, he⟩ := exec_dcLuma i (by simpa using decodeDcPred_context hd)
              rw [he] at h'
              cases h'; exact .dcPred _ len size b hl hz ht hp hs
            · obtain ⟨len, size, b, hl, hz, he⟩ := exec_dcChroma i (by simpa using decodeDcPred_context hd)
              rw [he] at h'
              cases h'; exact .dcPred _ len size b hl hz ht hp hs
        · cases h
        · cases h
      · rcases h with ⟨i', h, _⟩ | ⟨e, h, rfl⟩ | ⟨h, _⟩
        · cases h
        · cases h
          unfold dcContext at hd
          have hdc : t'.isDc = true := by
            split at hd
            · cases hd
            · split at hd
              · exact decodeDcPred_other hd
              · exact decodeDcPred_other hd
          cases t' with
          | dc delta len =>
            have := Move.dcTable delta len ht hp hs
            rw [← hch] at this
            simp only [runEngineStep, tableItemStep]
            exact this
          | _ => cases hdc
        · cases h
      · rcases h with ⟨i', h, _⟩ | ⟨e, h, rfl⟩ | ⟨h, _⟩
        · cases h
        · cases h; exact .dcMismatch ht hp hs
        · cases h
    case acItem =>
      rcases hd : decode s.cfg .acItem (.bits (lookahead s)) with i | t' | w <;>
        rw [hd] at h
      · rcases h with ⟨i', h, h'⟩ | ⟨e, h, _⟩ | ⟨h, _⟩
        · cases h
          rcases exec_acItem i (decodeAc_context hd) with ⟨len, run, mag, neg, hl, he⟩ | ⟨run, level, he⟩ | he
          · rw [he] at h'
            cases h'; exact .acRow len run mag neg ht hp hs
          · rw [he] at h'
            cases h'; exact .acEscape 6 run level ht hp hs
          · rw [he] at h'
            cases h'; exact .acEnd 2 ht hp hs
        · cases h
        · cases h
      · rcases h with ⟨i', h, _⟩ | ⟨e, h, rfl⟩ | ⟨h, _⟩
        · cases h
        · cases h
          have hdc := decodeAc_other hd
          cases t' with
          | ac len run mag neg => exact .acRow len run mag neg ht hp hs
          | esc len run level => exact .acEscape len run level ht hp hs
          | eob len => exact .acEnd len ht hp hs
          | dc delta len => cases hdc
        · cases h
      · rcases h with ⟨i', h, _⟩ | ⟨e, h, rfl⟩ | ⟨h, _⟩
        · cases h
        · cases h; exact .acMismatch ht hp hs
        · cases h
    all_goals
      rcases h with ⟨i, h, _⟩ | ⟨e, h, rfl⟩ | ⟨h, _⟩
      · cases h
      · cases h
        first
        | exact .segmentInit ht hp (by rw [hs]; rfl)
        | exact .reconstruct ht hp hs
        | exact .mergePlace ht hp hs
        | exact .emitFrame ht hp hs
        | exact .toProbe ht hp hs
      · cases h
  · -- SEG_PROBE
    simp only [fetchEngine, hp, fetchProbe, decode, decodeProbe] at h
    split at h
    · rcases h with ⟨i, h, h'⟩ | ⟨e, h, _⟩ | ⟨h, _⟩
      · cases h; cases h'; exact .probe ht hp
      · cases h
      · cases h
    · rcases h with ⟨i, h, _⟩ | ⟨e, h, rfl⟩ | ⟨h, _⟩
      · cases h
      · cases h; exact .noTexture ht hp
      · cases h
  · simp only [fetchEngine, hp] at h
    rcases h with ⟨i, h, _⟩ | ⟨e, h, _⟩ | ⟨_, rfl⟩
    · cases h
    · cases h
    · exact .stay

/-- Every next state of a step is a move. -/
theorem step_move {s t : State} (h : step s = .next t) : Move s t := by
  unfold step at h
  rcases fetch_cases s with ⟨v, _, hf⟩ | ⟨a, ha, hf⟩ | ⟨ht, hf⟩ | hf
  · rw [hf] at h; exact decodeHost_move h
  · rw [hf] at h; exact hostStep_move ha h
  · rw [hf] at h
    apply fetchEngine_move ht
    rcases he : fetchEngine s with i | e | a | _ <;> rw [he] at h
    · exact Or.inl ⟨i, rfl, h⟩
    · cases h; exact Or.inr (Or.inl ⟨e, rfl, rfl⟩)
    · exfalso
      have : ∀ (m : EngineStep) (d : Decoded), Decoded.fetched m d ≠ .host a := by
        intro m d; cases d <;> simp [Decoded.fetched]
      unfold fetchEngine fetchTiled fetchSegHdr fetchDecode fetchProbe at he
      split at he <;> (try split at he) <;> (try split at he) <;> first | exact this _ _ he | cases he
    · cases h; exact Or.inr (Or.inr ⟨rfl, rfl⟩)
  · rw [hf] at h; cases h; exact .stay

end Sys2Proof.Machine
end

