-- ==== Sys2Proof/Laws/Stream.lean ====
section
/-! SUPPORT. What the decoder finds in the stream: the bits it gets, the code words of the parameter tables and of the free
DC_CODE among them, and the steps on such words. -/

namespace Sys2Proof.Machine

@[simp] theorem nextBits_length (s : State) (n : Nat) : (nextBits s n).length = n := by simp [nextBits]

theorem nextBits_getD (s : State) {n j : Nat} (h : j < n) : (nextBits s n).getD j false =
    streamBit s.mem s.cursor.srcBase s.cursor.srcEnd (s.cursor.bitpos + j) := by
  rw [List.getD_eq_getElem _ _ (by simp [h])]
  simp [nextBits]

theorem nextBits_begins (s : State) (n : Nat) : StreamBegins s.mem s.cursor (nextBits s n) := by
  intro j hj
  rw [nextBits_getD s (by simpa using hj)]

theorem nextBits_prefix (s : State) {n N : Nat} (h : n ≤ N) : (nextBits s n).isPrefixOf (nextBits s N) = true := by
  rw [List.isPrefixOf_iff_prefix, List.prefix_iff_eq_take, nextBits_length]
  unfold nextBits
  rw [← List.map_take, List.take_range, Nat.min_eq_left h]

/-- A word at the beginning of the next bits is the next bits of its length. -/
theorem eq_nextBits_of_prefix (s : State) {w : List Bool} {N : Nat} (h : w.isPrefixOf (nextBits s N) = true) :
    w = nextBits s w.length := by
  have hle := (List.isPrefixOf_iff_prefix.1 h).length_le
  rw [nextBits_length] at hle
  have h2 := List.isPrefixOf_iff_prefix.1 (nextBits_prefix s hle)
  exact (List.prefix_of_prefix_length_le (List.isPrefixOf_iff_prefix.1 h) h2 (by simp)).eq_of_length (by simp)

/-- The first part of a stream that begins with two lists after one another. -/
theorem streamBegins_left {m : Memory} {c : Cursor} {a b : List Bool} (h : StreamBegins m c (a ++ b)) :
    StreamBegins m c a := by
  intro j hj
  rw [h j (by simp; omega), List.getD_append _ _ _ _ hj]

/-- Past the region the stream is zeros (R141). -/
theorem streamBit_past_region (s : State) {j : Nat} (h : 8 * (s.cursor.srcEnd - s.cursor.srcBase) + 8 ≤ j) :
    streamBit s.mem s.cursor.srcBase s.cursor.srcEnd (s.cursor.bitpos + j) = false := by
  have h1 : ¬ s.cursor.srcBase + 2 * ((s.cursor.bitpos + j) / 16) < s.cursor.srcEnd := by omega
  have h2 : ¬ s.cursor.srcBase + 2 * ((s.cursor.bitpos + j) / 16) + 1 < s.cursor.srcEnd := by omega
  simp [streamBit, srcWord, srcByte, h1, h2]

/-- The next bits to the region's end and beyond hold every prefix of the stream. -/
theorem streamPrefix_nextBits (s : State) {N : Nat} (hN : 8 * (s.cursor.srcEnd - s.cursor.srcBase) + 8 ≤ N) (n : Nat) :
    streamPrefix (nextBits s N) n = nextBits s n := by
  unfold streamPrefix
  conv_rhs => unfold nextBits
  refine List.map_congr_left fun j _ => ?_
  by_cases hj : j < N
  · exact nextBits_getD s hj
  · rw [streamBit_past_region s (by omega), List.getD_eq_default _ _ (by simp; omega)]

theorem dropZeros_append (a : List Bool) (n : Nat) : dropZeros (a ++ List.replicate n false) = dropZeros a := by
  unfold dropZeros
  rw [List.reverse_append, List.reverse_replicate, List.dropWhile_append_of_pos]
  simp

/-- How far past the region the next bits go does not matter to their last 1. -/
theorem dropZeros_nextBits (s : State) {M N : Nat} (hM : 8 * (s.cursor.srcEnd - s.cursor.srcBase) + 8 ≤ M) (h : M ≤ N) :
    dropZeros (nextBits s N) = dropZeros (nextBits s M) := by
  obtain ⟨d, rfl⟩ : ∃ d, N = M + d := ⟨N - M, by omega⟩
  have : nextBits s (M + d) = nextBits s M ++ List.replicate d false := by
    unfold nextBits
    rw [List.range_add, List.map_append]
    congr 1
    apply List.ext_getElem
    · simp
    · intro j h1 h2
      simpa [Nat.add_assoc] using streamBit_past_region s (j := M + j) (by omega)
  rw [this, dropZeros_append]

/-! The window is wide enough. -/

theorem codeReach_le (s : State) : codeReach s + 34 ≤ 16 * lookaheadBlocks s := by unfold lookaheadBlocks; omega

theorem acCode_le_codeReach {s : State} {rows : List AcRow} {eob esc : List Bool}
    (h : s.cfg.acCode = .table rows eob esc) {b : List Bool} (hb : b ∈ eob :: esc :: rows.map AcRow.code) :
    b.length ≤ codeReach s := by
  have := le_longestCode hb
  unfold codeReach
  rw [h]
  simp only
  omega

theorem dcCode_le_codeReach {s : State} {y c : List DcRow} (h : s.cfg.dcCode = .table y c) {luma : Bool} {row : DcRow}
    (hr : row ∈ (if luma then y else c)) : row.code.length ≤ codeReach s := by
  have hm : row.code ∈ (y ++ c).map DcRow.code := List.mem_map_of_mem (by
    cases luma
    · exact List.mem_append_right _ hr
    · exact List.mem_append_left _ hr)
  have := le_longestCode hm
  unfold codeReach
  rw [h]
  simp only
  omega

theorem region_le_codeReach {s : State} (h : s.cfg.dcCode = .free) :
    8 * (s.cursor.srcEnd - s.cursor.srcBase) + 16 ≤ 16 * lookaheadBlocks s := by
  have h1 := codeReach_le s
  have h2 : 8 * (s.cursor.srcEnd - s.cursor.srcBase) ≤ codeReach s := by
    unfold codeReach
    rw [h]
    simp only
    omega
  omega

/-! The next word of a DC_CODE that is not the candidate (R104, R164). -/

/-- The decoder reads it. -/
theorem decodeDcPred_word {s : State} (hc : CursorOk s.mem s.cursor) (hl : s.cfg.dcCode.legal = true) {luma : Bool}
    {len : Nat} {delta : Int} (h : NextDcWord s luma len delta) :
    decodeDcPred s.cfg.dcCode luma (lookahead s) = .other (.dc delta len) ∧ 1 ≤ len := by
  rw [lookahead_eq hc]
  unfold NextDcWord at h
  have hw := codeReach_le s
  rcases hcode : s.cfg.dcCode with _ | ⟨y, c⟩ | _ <;> rw [hcode] at h hl
  · exact absurd h id
  · have hm : (⟨nextBits s len, delta⟩ : DcRow) ∈ (if luma then y else c) := h
    have hlen := dcCode_le_codeReach hcode hm
    simp only [nextBits_length] at hlen
    simp only [DcCode.legal, Bool.and_eq_true, List.all_eq_true] at hl
    have hf : codesPrefixFree ((if luma then y else c).map DcRow.code) = true := by cases luma <;> simp [hl]
    have hd := findDcRow_of_mem (row := ⟨nextBits s len, delta⟩) (nextBits_prefix s (by omega)) hf hm
      (b := nextBits s (16 * lookaheadBlocks s))
    simp only [nextBits_length] at hd
    refine ⟨by simp only [decodeDcPred, hd], ?_⟩
    have hne := hl.2 ⟨nextBits s len, delta⟩ (by cases luma <;> simp at hm ⊢ <;> simp [hm])
    simp at hne
    have hp := List.length_pos_iff.2 hne
    rwa [nextBits_length] at hp
  · obtain ⟨h1, h2, h3, h4⟩ := h
    have hN := region_le_codeReach hcode
    have hd := findFreeDc_eq (b := nextBits s (16 * lookaheadBlocks s)) (n := 1)
      (fuel := Config.freeDcReach luma (dropZeros (nextBits s (16 * lookaheadBlocks s)))) h1
      (by rw [dropZeros_nextBits s (by omega) hN]; omega)
      (by rw [streamPrefix_nextBits s (by omega)]; exact h2)
      (fun m hm1 hm2 => by rw [streamPrefix_nextBits s (by omega)]; exact h3 m hm1 hm2)
    exact ⟨by simp only [decodeDcPred, hd], h1⟩

/-- Without one, the decoder answers mismatch (R167). -/
theorem decodeDcPred_noWord {s : State} (hc : CursorOk s.mem s.cursor) {luma : Bool} (hcand : s.cfg.dcCode ≠ .candidate)
    (h : ∀ len delta, ¬ NextDcWord s luma len delta) :
    decodeDcPred s.cfg.dcCode luma (lookahead s) = .reject .dcMismatch := by
  rw [lookahead_eq hc]
  unfold NextDcWord at h
  rcases hcode : s.cfg.dcCode with _ | ⟨y, c⟩ | _
  · exact absurd hcode hcand
  · have : findDcRow (if luma then y else c) (nextBits s (16 * lookaheadBlocks s)) = none := by
      refine findDcRow_none fun row hrow => ?_
      by_contra hp
      have hb := eq_nextBits_of_prefix s (by simpa using hp)
      apply h row.code.length row.delta
      rw [hcode]
      simp only
      rw [← hb]
      exact hrow
    simp only [decodeDcPred, this]
  · have hN := region_le_codeReach hcode
    have key : ∀ m, 1 ≤ m → m < 1 + Config.freeDcReach luma (dropZeros (nextBits s (16 * lookaheadBlocks s))) →
        Config.freeDcWord luma (nextBits s m) = none := by
      intro m
      induction m using Nat.strong_induction_on with
      | _ m ih =>
        intro h1 h2
        by_contra hne
        obtain ⟨delta, hd⟩ := Option.ne_none_iff_exists'.1 hne
        apply h m delta
        rw [hcode]
        refine ⟨h1, hd, fun k hk1 hk2 => ih k hk2 hk1 (by omega), ?_⟩
        rw [dropZeros_nextBits s (by omega) hN] at h2
        omega
    have hd := findFreeDc_none (b := nextBits s (16 * lookaheadBlocks s)) (n := 1) fun m h1 h2 => by
      rw [streamPrefix_nextBits s (by omega)]
      exact key m h1 h2
    simp only [decodeDcPred, hd]

/-! The steps on the words of parameter tables. -/

/-- A table's AC item is the step's effect. -/
theorem step_acTable {s : State} (ht : EngineTurn s) (hp : s.phase = .segDecode) (hs : s.stage = .acItem) {d : TableItem}
    (hd : decodeAc s.cfg.acCode (lookahead s) = .other d) : step s = .next (tableItemStep d (popHost s)) := by
  simp [step, fetch_engineTurn ht, fetchEngine, hp, hs, fetchDecode, decode, hd, Decoded.fetched, runEngineStep]

/-- A DC word that is no row of the opcode table is the step's effect. -/
theorem step_dcTable {s : State} (ht : EngineTurn s) (hp : s.phase = .segDecode) (hs : s.stage = .dcItem)
    (hf : s.hdr.flat = false) {d : TableItem}
    (hd : decodeDcPred s.cfg.dcCode (decide (s.channel = .y)) (lookahead s) = .other d) :
    step s = .next (tableItemStep d (popHost s)) := by
  by_cases hy : s.channel = .y <;> simp [hy] at hd <;>
    simp [step, fetch_engineTurn ht, fetchEngine, hp, hs, fetchDecode, dcContext, hf, hy, decode, hd, Decoded.fetched,
      runEngineStep]

/-- Such a word adds 4 delta to the predictor of the block's channel and takes `len` bits (R164, R166). -/
theorem step_dcWord {s : State} (ht : EngineTurn s) (hp : s.phase = .segDecode) (hs : s.stage = .dcItem)
    (hf : s.hdr.flat = false) (hc : CursorOk s.mem s.cursor) (hl : s.cfg.dcCode.legal = true) {len : Nat} {delta : Int}
    (h : NextDcWord s (decide (s.channel = .y)) len delta) :
    1 ≤ len ∧ step s = .next (dcCodeItem s.channel delta len (popHost s)) := by
  obtain ⟨hd, h1⟩ := decodeDcPred_word hc hl h
  have hch : (popHost s).channel = s.channel := by simp [State.channel, State.role]
  exact ⟨h1, by rw [step_dcTable ht hp hs hf hd, tableItemStep, hch]⟩

end Sys2Proof.Machine
end

