-- ==== Sys2Proof/Laws/Tokens.lean ====
section
/-! SUPPORT. When a token of the bitstream assembly stands for bits, and for which. -/

namespace Sys2Proof.Machine

/-- AC r,l stands for bits under R110's table only if a row has the run and the magnitude; its bits are that row's. -/
theorem acToken_spec {run : Nat} {level : Int} {b : List Bool} (h : acToken .spec run level = some b) :
    level ≠ 0 ∧ ∃ e ∈ acTable, e.run = run ∧ e.mag = level.natAbs
      ∧ b = natBits e.codeLen e.code ++ [decide (level < 0)] := by
  unfold acToken at h
  split at h
  · cases h
  · refine ⟨‹_›, ?_⟩
    simp only [acWord, Option.map_map, Option.map_eq_some_iff] at h
    obtain ⟨e, he, rfl⟩ := h
    have hp := List.find?_some he
    simp only [Bool.and_eq_true, beq_iff_eq] at hp
    exact ⟨e, List.mem_of_find?_eq_some he, hp.1, hp.2, rfl⟩

/-- R110's table holds no pair that an escape cannot carry. -/
theorem acTable_fits : ∀ e ∈ acTable, e.run ≤ 31 ∧ 1 ≤ e.mag ∧ e.mag ≤ 40 := by decide

/-- ESC r,l stands for bits when r and l fit their fields (R109). -/
theorem escToken_isSome (a : AcCode) (run : Nat) (level : Int) :
    (escToken a run level).isSome = true ↔ run ≤ 63 ∧ -1024 ≤ level ∧ level ≤ 1023 := by
  unfold escToken
  split <;> simp_all

/-- The bits of ESC r,l. -/
theorem escToken_some {a : AcCode} {run : Nat} {level : Int} {b : List Bool} (h : escToken a run level = some b) :
    run ≤ 63 ∧ -1024 ≤ level ∧ level ≤ 1023
      ∧ b = escWord a ++ natBits 6 run ++ natBits 11 (BitVec.ofInt 11 level).toNat := by
  unfold escToken at h
  split at h
  · rename_i hr
    exact ⟨hr.1, hr.2.1, hr.2.2, (Option.some.inj h).symm⟩
  · cases h

/-- AC* r,l is the AC token or the ESC token (R121). -/
theorem acStar_cases {c : Config} {run : Nat} {level : Int} {b : List Bool}
    (h : (Token.acStar run level).stream? c = some b) :
    acToken c.acCode run level = some b ∨ (acToken c.acCode run level = none ∧ escToken c.acCode run level = some b) := by
  simp only [Token.stream?] at h
  cases hac : acToken c.acCode run level <;> simp_all

end Sys2Proof.Machine
end

