-- ==== Sys2Proof/Tests/Slice0.lean ====
section
/-! SUPPORT. Tests of the model against values that the spec writes out: the refusals of WellFormed, the words of the opcode
table (30_encoding.md R103 to R119), one step of the items and records of 95_test_vectors.md, and for each statement
with hypotheses a witness that meets them. -/

namespace Sys2Proof.Tests

open Sys2Proof.Machine

/-! Small states. -/

/-- A run in progress in the phase and stage given, with an input of `n` bytes. -/
def running (phase : Phase) (stage : Stage) (n : Nat) : State :=
  { State.reset with status := startedStatus, phase := phase, stage := stage, inLen := BitVec.ofNat 32 n }

/-- `running` with the bytes `b` at IN address 0. -/
def withBytes (b : List Byte) (phase : Phase) (stage : Stage) (n : Nat) : State :=
  { running phase stage n with mem := Memory.writeAll [] 0 b }

/-- A segment at offset 0 whose region [8, 16) begins with the `n` bits of `v`, with the cursor at its start. -/
def stream (n v : Nat) (stage : Stage) : State := placeBits (natBits n v) stage State.reset

/-- A host action pending in the reset state. -/
def asked (a : HostAction) : State := { State.reset with host := [a] }

/-- The outcome is a next state with the property. -/
def nextWith (r : Result) (p : State → Bool) : Bool :=
  match r with
  | .next t => p t
  | .fault _ => false
  | .refused _ => false

/-- A configuration with another AC table and another DC code. -/
def otherCodes : Config :=
  { referenceConfig with
    acCode := .table [⟨[false, true, true], 2, 3⟩] [true] [false, false]
    dcCode := .table [⟨[false], 7⟩, ⟨[true], -7⟩] [⟨[false], 1⟩, ⟨List.replicate 17 true, 2⟩] }

/-- A segment under `otherCodes` that begins with the `n` bits of `v`, at the block position given. -/
def coded (n v : Nat) (stage : Stage) (blk : Nat) : State :=
  { stream n v stage with cfg := otherCodes, blk := blk }

/-! WellFormed refuses. -/

theorem test_wf_ac_row_of_another_table : WellFormed otherCodes (.acR0L1 false) = false := by decide
theorem test_wf_last_ac_row_of_another_table : WellFormed otherCodes (.acR31L1 true) = false := by decide
theorem test_wf_escape_of_another_table : WellFormed otherCodes (.esc 3 5) = false := by decide
theorem test_wf_eob_of_another_table : WellFormed otherCodes .eob = false := by decide
theorem test_wf_luma_code_of_another_table : WellFormed otherCodes (.dcy3 1) = false := by decide
theorem test_wf_luma_size_zero_of_another_table : WellFormed otherCodes .dcy0 = false := by decide
theorem test_wf_chroma_code_of_another_table : WellFormed otherCodes (.dcc2 1) = false := by decide
theorem test_wf_header_type : WellFormed referenceConfig (.segHdr 0 0x3801 1 3) = false := by decide
theorem test_wf_header_version : WellFormed referenceConfig (.segHdr 0 0x3800 1 4) = false := by decide
theorem test_wf_texture_magic : WellFormed referenceConfig (.tiledTex 0x11 0x08) = false := by decide
theorem test_wf_texture_type : WellFormed referenceConfig (.tiledTex 0x10 0x33) = false := by decide
theorem test_wf_texture_pattern : WellFormed referenceConfig (.texPrefix 0xA5A4) = false := by decide

/-! Decoding: the words of R110 (match column; the sign bit follows the code, R107), first with s = 0, then with s = 1. -/

/-- A table word and the instruction it stands for. -/
def readsAs (w : Nat × Instr) : Bool := decide (decodeTableWord 24 w.1 = some w.2)

theorem test_decode_ac_positive_0 : List.all
    [(0x18000, .acR0L1 false), (0x0C000, .acR1L1 false), (0x08000, .acR0L2 false),
     (0x0A000, .acR2L1 false), (0x05000, .acR0L3 false), (0x07000, .acR3L1 false),
     (0x06000, .acR4L1 false), (0x03000, .acR1L2 false), (0x03800, .acR5L1 false),
     (0x02800, .acR6L1 false), (0x02000, .acR7L1 false), (0x01800, .acR0L4 false),
     (0x01000, .acR2L2 false), (0x01C00, .acR8L1 false), (0x01400, .acR9L1 false),
     (0x04C00, .acR0L5 false)]
    readsAs = true := by decide
theorem test_decode_ac_positive_1 : List.all
    [(0x04200, .acR0L6 false), (0x04A00, .acR1L3 false), (0x04800, .acR3L2 false),
     (0x04E00, .acR10L1 false), (0x04600, .acR11L1 false), (0x04400, .acR12L1 false),
     (0x04000, .acR13L1 false), (0x00500, .acR0L7 false), (0x00600, .acR1L4 false),
     (0x00580, .acR2L3 false), (0x00780, .acR4L2 false), (0x00480, .acR5L2 false),
     (0x00700, .acR14L1 false), (0x00680, .acR15L1 false), (0x00400, .acR16L1 false),
     (0x003A0, .acR0L8 false)]
    readsAs = true := by decide
theorem test_decode_ac_positive_2 : List.all
    [(0x00300, .acR0L9 false), (0x00260, .acR0L10 false), (0x00200, .acR0L11 false),
     (0x00360, .acR1L5 false), (0x00280, .acR2L4 false), (0x00380, .acR3L3 false),
     (0x00240, .acR4L3 false), (0x003C0, .acR6L2 false), (0x002A0, .acR7L2 false),
     (0x00220, .acR8L2 false), (0x003E0, .acR17L1 false), (0x00340, .acR18L1 false),
     (0x00320, .acR19L1 false), (0x002E0, .acR20L1 false), (0x002C0, .acR21L1 false),
     (0x001A0, .acR0L12 false)]
    readsAs = true := by decide
theorem test_decode_ac_positive_3 : List.all
    [(0x00190, .acR0L13 false), (0x00180, .acR0L14 false), (0x00170, .acR0L15 false),
     (0x00160, .acR1L6 false), (0x00150, .acR1L7 false), (0x00140, .acR2L5 false),
     (0x00130, .acR3L4 false), (0x00120, .acR5L3 false), (0x00110, .acR9L2 false),
     (0x00100, .acR10L2 false), (0x001F0, .acR22L1 false), (0x001E0, .acR23L1 false),
     (0x001D0, .acR24L1 false), (0x001C0, .acR25L1 false), (0x001B0, .acR26L1 false),
     (0x000F8, .acR0L16 false)]
    readsAs = true := by decide
theorem test_decode_ac_positive_4 : List.all
    [(0x000F0, .acR0L17 false), (0x000E8, .acR0L18 false), (0x000E0, .acR0L19 false),
     (0x000D8, .acR0L20 false), (0x000D0, .acR0L21 false), (0x000C8, .acR0L22 false),
     (0x000C0, .acR0L23 false), (0x000B8, .acR0L24 false), (0x000B0, .acR0L25 false),
     (0x000A8, .acR0L26 false), (0x000A0, .acR0L27 false), (0x00098, .acR0L28 false),
     (0x00090, .acR0L29 false), (0x00088, .acR0L30 false), (0x00080, .acR0L31 false),
     (0x00060, .acR0L32 false)]
    readsAs = true := by decide
theorem test_decode_ac_positive_5 : List.all
    [(0x0005C, .acR0L33 false), (0x00058, .acR0L34 false), (0x00054, .acR0L35 false),
     (0x00050, .acR0L36 false), (0x0004C, .acR0L37 false), (0x00048, .acR0L38 false),
     (0x00044, .acR0L39 false), (0x00040, .acR0L40 false), (0x0007C, .acR1L8 false),
     (0x00078, .acR1L9 false), (0x00074, .acR1L10 false), (0x00070, .acR1L11 false),
     (0x0006C, .acR1L12 false), (0x00068, .acR1L13 false), (0x00064, .acR1L14 false),
     (0x00026, .acR1L15 false)]
    readsAs = true := by decide
theorem test_decode_ac_positive_6 : List.all
    [(0x00024, .acR1L16 false), (0x00022, .acR1L17 false), (0x00020, .acR1L18 false),
     (0x00028, .acR6L3 false), (0x00034, .acR11L2 false), (0x00032, .acR12L2 false),
     (0x00030, .acR13L2 false), (0x0002E, .acR14L2 false), (0x0002C, .acR15L2 false),
     (0x0002A, .acR16L2 false), (0x0003E, .acR27L1 false), (0x0003C, .acR28L1 false),
     (0x0003A, .acR29L1 false), (0x00038, .acR30L1 false), (0x00036, .acR31L1 false)]
    readsAs = true := by decide
theorem test_decode_ac_negative_0 : List.all
    [(0x1C000, .acR0L1 true), (0x0E000, .acR1L1 true), (0x09000, .acR0L2 true),
     (0x0B000, .acR2L1 true), (0x05800, .acR0L3 true), (0x07800, .acR3L1 true),
     (0x06800, .acR4L1 true), (0x03400, .acR1L2 true), (0x03C00, .acR5L1 true),
     (0x02C00, .acR6L1 true), (0x02400, .acR7L1 true), (0x01A00, .acR0L4 true),
     (0x01200, .acR2L2 true), (0x01E00, .acR8L1 true), (0x01600, .acR9L1 true),
     (0x04D00, .acR0L5 true)]
    readsAs = true := by decide
theorem test_decode_ac_negative_1 : List.all
    [(0x04300, .acR0L6 true), (0x04B00, .acR1L3 true), (0x04900, .acR3L2 true),
     (0x04F00, .acR10L1 true), (0x04700, .acR11L1 true), (0x04500, .acR12L1 true),
     (0x04100, .acR13L1 true), (0x00540, .acR0L7 true), (0x00640, .acR1L4 true),
     (0x005C0, .acR2L3 true), (0x007C0, .acR4L2 true), (0x004C0, .acR5L2 true),
     (0x00740, .acR14L1 true), (0x006C0, .acR15L1 true), (0x00440, .acR16L1 true),
     (0x003B0, .acR0L8 true)]
    readsAs = true := by decide
theorem test_decode_ac_negative_2 : List.all
    [(0x00310, .acR0L9 true), (0x00270, .acR0L10 true), (0x00210, .acR0L11 true),
     (0x00370, .acR1L5 true), (0x00290, .acR2L4 true), (0x00390, .acR3L3 true),
     (0x00250, .acR4L3 true), (0x003D0, .acR6L2 true), (0x002B0, .acR7L2 true),
     (0x00230, .acR8L2 true), (0x003F0, .acR17L1 true), (0x00350, .acR18L1 true),
     (0x00330, .acR19L1 true), (0x002F0, .acR20L1 true), (0x002D0, .acR21L1 true),
     (0x001A8, .acR0L12 true)]
    readsAs = true := by decide
theorem test_decode_ac_negative_3 : List.all
    [(0x00198, .acR0L13 true), (0x00188, .acR0L14 true), (0x00178, .acR0L15 true),
     (0x00168, .acR1L6 true), (0x00158, .acR1L7 true), (0x00148, .acR2L5 true),
     (0x00138, .acR3L4 true), (0x00128, .acR5L3 true), (0x00118, .acR9L2 true),
     (0x00108, .acR10L2 true), (0x001F8, .acR22L1 true), (0x001E8, .acR23L1 true),
     (0x001D8, .acR24L1 true), (0x001C8, .acR25L1 true), (0x001B8, .acR26L1 true),
     (0x000FC, .acR0L16 true)]
    readsAs = true := by decide
theorem test_decode_ac_negative_4 : List.all
    [(0x000F4, .acR0L17 true), (0x000EC, .acR0L18 true), (0x000E4, .acR0L19 true),
     (0x000DC, .acR0L20 true), (0x000D4, .acR0L21 true), (0x000CC, .acR0L22 true),
     (0x000C4, .acR0L23 true), (0x000BC, .acR0L24 true), (0x000B4, .acR0L25 true),
     (0x000AC, .acR0L26 true), (0x000A4, .acR0L27 true), (0x0009C, .acR0L28 true),
     (0x00094, .acR0L29 true), (0x0008C, .acR0L30 true), (0x00084, .acR0L31 true),
     (0x00062, .acR0L32 true)]
    readsAs = true := by decide
theorem test_decode_ac_negative_5 : List.all
    [(0x0005E, .acR0L33 true), (0x0005A, .acR0L34 true), (0x00056, .acR0L35 true),
     (0x00052, .acR0L36 true), (0x0004E, .acR0L37 true), (0x0004A, .acR0L38 true),
     (0x00046, .acR0L39 true), (0x00042, .acR0L40 true), (0x0007E, .acR1L8 true),
     (0x0007A, .acR1L9 true), (0x00076, .acR1L10 true), (0x00072, .acR1L11 true),
     (0x0006E, .acR1L12 true), (0x0006A, .acR1L13 true), (0x00066, .acR1L14 true),
     (0x00027, .acR1L15 true)]
    readsAs = true := by decide
theorem test_decode_ac_negative_6 : List.all
    [(0x00025, .acR1L16 true), (0x00023, .acR1L17 true), (0x00021, .acR1L18 true),
     (0x00029, .acR6L3 true), (0x00035, .acR11L2 true), (0x00033, .acR12L2 true),
     (0x00031, .acR13L2 true), (0x0002F, .acR14L2 true), (0x0002D, .acR15L2 true),
     (0x0002B, .acR16L2 true), (0x0003F, .acR27L1 true), (0x0003D, .acR28L1 true),
     (0x0003B, .acR29L1 true), (0x00039, .acR30L1 true), (0x00037, .acR31L1 true)]
    readsAs = true := by decide

/-! The escape of A9, a flat term of DC4 and DC2, and the DC_PRED codes of R105 with literals of ones and of zeros. -/

theorem test_decode_eob : readsAs (0x10000, .eob) = true := by decide
theorem test_decode_escape : decode referenceConfig .acItem (.bits (natBits 23 0b00000100001111111111110)) =
    .ok (.esc 3 0x7FE) := by decide
theorem test_decode_escape_run : decode referenceConfig .acItem (.bits (natBits 23 0b00000110000000000000001)) =
    .ok (.esc 32 1) := by decide
theorem test_decode_flat : decode referenceConfig .dcFlat (.bits (natBits 12 0b111111111010)) = .ok (.dcf 0x3FE) := by
  decide
theorem test_decode_flat_word : decodeTableWord 16 0x200 = some (.dcf 0x200) := by decide
theorem test_decode_luma_ones : List.all
    [(4, 0b1000, .dcy0), (4, 0b0010, .dcy1 1), (5, 0b01110, .dcy2 3),
     (7, 0b1011110, .dcy3 7), (8, 0b11011110, .dcy4 15), (10, 0b1110111110, .dcy5 31),
     (12, 0b111101111110, .dcy6 63), (14, 0b11111011111110, .dcy7 127), (16, 0b1111110111111110, .dcy8 255)]
    (fun w : Nat × Nat × Instr => decide (decode referenceConfig .dcLuma (.bits (natBits w.1 w.2.1)) = .ok w.2.2)) = true := by
  decide
theorem test_decode_luma_zeros : List.all
    [(4, 0b1001, .dcy0), (4, 0b0001, .dcy1 0), (5, 0b01001, .dcy2 0),
     (7, 0b1010001, .dcy3 0), (8, 0b11000001, .dcy4 0), (10, 0b1110000001, .dcy5 0),
     (12, 0b111100000001, .dcy6 0), (14, 0b11111000000001, .dcy7 0), (16, 0b1111110000000001, .dcy8 0)]
    (fun w : Nat × Nat × Instr => decide (decode referenceConfig .dcLuma (.bits (natBits w.1 w.2.1)) = .ok w.2.2)) = true := by
  decide
theorem test_decode_chroma_ones : List.all
    [(3, 0b000, .dcc0), (4, 0b0110, .dcc1 1), (5, 0b10110, .dcc2 3),
     (7, 0b1101110, .dcc3 7), (9, 0b111011110, .dcc4 15), (11, 0b11110111110, .dcc5 31),
     (13, 0b1111101111110, .dcc6 63), (15, 0b111111011111110, .dcc7 127), (17, 0b11111110111111110, .dcc8 255)]
    (fun w : Nat × Nat × Instr => decide (decode referenceConfig .dcChroma (.bits (natBits w.1 w.2.1)) = .ok w.2.2)) = true := by
  decide
theorem test_decode_chroma_zeros : List.all
    [(3, 0b001, .dcc0), (4, 0b0101, .dcc1 0), (5, 0b10001, .dcc2 0),
     (7, 0b1100001, .dcc3 0), (9, 0b111000001, .dcc4 0), (11, 0b11110000001, .dcc5 0),
     (13, 0b1111100000001, .dcc6 0), (15, 0b111111000000001, .dcc7 0), (17, 0b11111110000000001, .dcc8 0)]
    (fun w : Nat × Nat × Instr => decide (decode referenceConfig .dcChroma (.bits (natBits w.1 w.2.1)) = .ok w.2.2)) = true := by
  decide

/-! Records and host words (R113 to R119), each from its bytes or its value. -/

theorem test_decode_header : decode referenceConfig .segHdr
    (.bytes [0x34, 0x12, 0x00, 0x38, 0x08, 0x00, 0x03, 0x00]) = .ok (.segHdr 0x1234 0x3800 8 3) := by decide
theorem test_decode_texture : decode referenceConfig (.tiled 8)
    (.bytes [0x10, 0x00, 0x00, 0x00, 0x09, 0x00, 0x00, 0x00]) = .ok (.tiledTex 0x10 0x09) := by decide
theorem test_decode_raw_chunk : decode referenceConfig (.tiled 163840)
    (.bytes [0x01, 0x00, 0x00, 0x00, 0x00, 0x00, 0x00, 0x00]) = .ok .rawChunk := by decide
theorem test_decode_pattern : decode referenceConfig .probe (.bytes [0x5A, 0x5A]) = .ok (.texPrefix 0x5A5A) := by decide
theorem test_decode_start : decode referenceConfig .host (.word 0xFFFFFFF3) = .ok (.start true false false) := by decide
theorem test_decode_start_source_error : decodeTableWord 32 0x0000000B = some (.start true false true) := by decide
theorem test_decode_control : decodeTableWord 32 0x00000004 = some (.ctrlSet false true false) := by decide

/-! Refusals of the decoder, by name: A16, DC15, DC16, F4, F5, a chunk that is too short, a value in no pattern. -/

theorem test_reject_ac : decode referenceConfig .acItem (.bits (natBits 17 0b00000000000011111)) = .reject .acMismatch := by
  decide
theorem test_reject_luma : decode referenceConfig .dcLuma (.bits (natBits 16 0b1111111000000000)) = .reject .dcMismatch := by
  decide
theorem test_reject_chroma : decode referenceConfig .dcChroma (.bits (natBits 16 0b1111111100000000)) =
    .reject .dcMismatch := by decide
theorem test_reject_version : decode referenceConfig .segHdr
    (.bytes [0x00, 0x00, 0x00, 0x38, 0x01, 0x00, 0x04, 0x00]) = .reject .formatMismatch := by decide
theorem test_reject_short_header : decode referenceConfig .segHdr
    (.bytes [0x00, 0x00, 0x00, 0x38, 0x01, 0x00, 0x03]) = .reject .formatMismatch := by decide
theorem test_reject_texture_type : decode referenceConfig (.tiled 163848)
    (.bytes [0x10, 0x00, 0x00, 0x00, 0x33, 0x00, 0x00, 0x00]) = .reject .unknownChunk := by decide
theorem test_reject_short_chunk : decode referenceConfig (.tiled 163839)
    (.bytes [0x01, 0x00, 0x00, 0x00, 0x00, 0x00, 0x00, 0x00]) = .reject .unknownChunk := by decide
theorem test_reject_pattern : decode referenceConfig .probe (.bytes [0xA5, 0x5A]) = .reject .noTexture := by decide

/-! The bit cursor: C1 to C8 of 95_test_vectors.md. -/

/-- The region of C1. -/
def c1 : Cursor := Cursor.init (Memory.writeAll [] 0 [0x34, 0x12, 0xCD, 0xAB]) 0 4

theorem test_cursor_init : c1.sr = 0x1234ABCD ∧ c1.avail = 16 ∧ c1.wptr = 4 ∧ c1.bitpos = 0 := by decide
theorem test_cursor_peek : c1.peek 4 = 0x1 ∧ c1.peek 17 = 0x02469 := by decide
theorem test_cursor_consume : (c1.advance (Memory.writeAll [] 0 [0x34, 0x12, 0xCD, 0xAB]) 4).sr = 0x234ABCD0 ∧
    (c1.advance (Memory.writeAll [] 0 [0x34, 0x12, 0xCD, 0xAB]) 16).sr = 0xABCD0000 := by decide
theorem test_cursor_overrun :
    (Cursor.init (Memory.writeAll [] 8 [0x80]) 8 9).overruns 10 = true
    ∧ (Cursor.init [] 8 10).overruns 16 = false := by decide

/-! One step of the DC items: DC2, DC5, DC9, DC14. -/

/-- A DC item of the current block with the bits given, FLAT and PRED as given, at block position `blk`. -/
def dcAt (n v : Nat) (flat : Bool) (blk : Nat) (pred : Pred) : State :=
  { stream n v .dcItem with
    hdr := { length := 0, typeId := 0x3800, quant := 8, version := 3, flat := flat }, blk := blk, pred := pred }

theorem test_step_flat : nextWith (step (dcAt 10 0b1000000000 true 0 Pred.zero))
    (fun t => decide (t.level.getD 0 0 = -512) && decide (t.cursor.bitpos = 10) && decide (t.qtag = 8)) = true := by decide
theorem test_step_luma : nextWith (step (dcAt 6 0b101011 false 2 { y := 40, cb := 1, cr := 2 }))
    (fun t => decide (t.pred = { y := 24, cb := 1, cr := 2 }) && decide (t.level.getD 0 0 = 24)
      && decide (t.cursor.bitpos = 6)) = true := by decide
theorem test_step_luma_largest : nextWith (step (dcAt 15 0b111111011111111 false 5 { y := 24, cb := 0, cr := 0 }))
    (fun t => decide (t.pred.y = 1044) && decide (t.cursor.bitpos = 15)) = true := by decide
theorem test_step_chroma : nextWith (step (dcAt 4 0b1000 false 1 { y := 5, cb := 0, cr := 7 }))
    (fun t => decide (t.pred = { y := 5, cb := -12, cr := 7 }) && decide (t.level.getD 0 0 = -12)) = true := by decide
theorem test_step_chroma_first_role : nextWith (step (dcAt 4 0b1010 false 0 Pred.zero))
    (fun t => decide (t.pred = { y := 0, cb := 0, cr := 8 })) = true := by decide
theorem test_step_dc_mismatch : nextWith (step (dcAt 16 0b1111111000000000 false 2 Pred.zero))
    (fun t => decide (t.status.word = 0x00000402) && decide (t.endInfo = 0x00020000) && decide (t.cursor.bitpos = 0)) =
    true := by decide

/-! One step of the AC items: A1, A6, A9, A12 to A15, A8. -/

/-- An AC item at K with the bits given. -/
def acAt (n v k : Nat) : State := { stream n v .acItem with k := k }

theorem test_step_ac : nextWith (step (acAt 3 0b110 0))
    (fun t => decide (t.level.getD 1 0 = 1) && decide (t.k = 1) && decide (t.cursor.bitpos = 3)) = true := by decide
theorem test_step_ac_longest : nextWith (step (acAt 17 0b00000000000110111 0))
    (fun t => decide (t.level.getD 32 0 = -1) && decide (t.k = 32) && decide (t.cursor.bitpos = 17)) = true := by decide
theorem test_step_ac_past_capacity : nextWith (step (acAt 3 0b110 64))
    (fun t => decide (t.oorCount = 1) && decide (t.k = 64) && decide (t.level = List.replicate 64 0)) = true := by decide
theorem test_step_escape : nextWith (step (acAt 23 0b00000100001111111111110 0))
    (fun t => decide (t.level.getD 4 0 = -2) && decide (t.k = 4) && decide (t.cursor.bitpos = 23)) = true := by decide
theorem test_step_escape_last_position : nextWith (step (acAt 23 0b00000111111000000000111 0))
    (fun t => decide (t.level.getD 63 0 = 7) && decide (t.k = 63) && decide (t.oorCount = 0)) = true := by decide
theorem test_step_eob : nextWith (step (acAt 2 0b10 5))
    (fun t => decide (t.stage = .reconstruct) && decide (t.k = 5) && decide (t.cursor.bitpos = 2)
      && decide (t.entryCount = 1)) = true := by decide
theorem test_step_ac_mismatch : nextWith (step (acAt 17 0b00000000000011111 1))
    (fun t => decide (t.status.endReason = .vlcMismatch) && decide (t.cursor.bitpos = 0)) = true := by decide

/-! Codes of other tables (R7, R164, R192), and the Overrun reports of one item on an empty region: once per Consume (R145), and
once for the item under the option perItem. -/

theorem test_step_long_word : nextWith (step (coded 17 0x1FFFF .dcItem 0))
    (fun t => decide (t.pred = { y := 0, cb := 0, cr := 8 }) && decide (t.cursor.bitpos = 17)
      && decide (t.stage = .acItem)) = true := by decide
theorem test_step_table_row : nextWith (step (coded 4 0b0111 .acItem 0))
    (fun t => decide (t.level.getD 3 0 = -3) && decide (t.k = 3) && decide (t.cursor.bitpos = 4)) = true := by decide
theorem test_pieces : consumePieces 16 = [16] ∧ consumePieces 17 = [16, 1] ∧ consumePieces 33 = [16, 16, 1] := by decide

/-- An empty region, with the reports as given. -/
def emptyRegion (r : OverrunReports) : State :=
  { running .segDecode .acItem 8 with
    cfg := { referenceConfig with overrunReports := r }, cursor := Cursor.init [] 8 8 }

theorem test_overrun_reports :
    nextWith (exec (.acR5L1 true) (emptyRegion .perItem)) (fun t => decide (t.overrunCount = 1)) = true
    ∧ nextWith (exec (.acR5L1 true) (emptyRegion .perConsume)) (fun t => decide (t.overrunCount = 2)) = true := by decide
/-! Bitstreams in the assembly of R120 and R121: P1, the payload of 95_test_vectors.md section 1.3, and P2. -/

theorem test_tokens_p1 : tokensBytes? referenceConfig (([0, 0, 50, -50, 0, 200].map fun v => blockTokens (.dcf v) []).flatten)
    = some [0x20, 0x00, 0x0C, 0x02, 0x3A, 0xAF, 0x23, 0x00, 0x00, 0x22] := by decide
theorem test_tokens_dc : tokensBytes? referenceConfig ((List.replicate 2 ((blockTokens (.dcc 0) [] ++ blockTokens (.dcc 0) [])
      ++ (List.replicate 4 (blockTokens (.dcy 5) [])).flatten)).flatten)
    = some [0xB6, 0x22, 0xB6, 0xB6, 0x22, 0xB6, 0xB6, 0xB6, 0xB6, 0xB6] := by decide
theorem test_tokens_p2 : tokensBytes? referenceConfig (blockTokens (.dcc 2) [] ++ blockTokens (.dcc (-3)) [.acStar 0 (-2)]
      ++ blockTokens (.dcy 10) [.acStar 0 3, .acStar 2 (-1), .acStar 5 100] ++ blockTokens (.dcy (-4)) []
      ++ blockTokens (.dcy 0) [.ac 1 1] ++ blockTokens (.dcy 255) [] ++ [.zero 2])
    = some [0x13, 0xAA, 0x29, 0x6A, 0x8A, 0x60, 0x2A, 0x19, 0xD7, 0xE8, 0xF8, 0xEF] := by decide

theorem test_reset_overrun_reports : State.reset.cfg.overrunReports = .perConsume := by decide

/-! One step of the records: F3, F4, F9, the header of P2, and the texture record of P2. -/

theorem test_step_header :
    nextWith (step (withBytes [0x00, 0x00, 0x00, 0x38, 0x08, 0x00, 0x03, 0x00] .segHdr .first 18))
      (fun t => decide (t.hdr.quant = 8) && decide (t.hdr.flat = false) && decide (t.segCount = 1)
        && decide (t.phase = .segDecode)) = true := by decide
theorem test_step_flat_header :
    nextWith (step (withBytes [0x00, 0x00, 0x00, 0x38, 0x01, 0x00, 0x02, 0x00] .segHdr .first 18))
      (fun t => decide (t.hdr.flat = true)) = true := by decide
theorem test_step_texture : nextWith (step (withBytes [0x10, 0, 0, 0, 0x08, 0, 0, 0, 0xDE] .tiled .first 9))
    (fun t => decide (t.pending = some (.nativeTexture 0 [0x10, 0, 0, 0, 0x08, 0, 0, 0, 0xDE]))
      && decide (t.outCount = 1) && decide (t.status.hold = true)) = true := by decide
/-- A probe at P = 8 with the bytes given there. -/
def probeAt (b : List Byte) : State :=
  { running .segProbe .first (8 + b.length) with mem := Memory.writeAll [] 8 b }
theorem test_step_pattern : nextWith (step (probeAt [0xA5, 0xA5, 0x08, 0x00, 0xDE, 0xAD, 0xBE, 0xEF]))
    (fun t => decide (t.pending = some (.nativeTexture 0 [0xA5, 0xA5, 0x08, 0x00, 0xDE, 0xAD, 0xBE, 0xEF]))
      && decide (t.cur = 65536) && decide (t.phase = .segHdr)) = true := by decide
theorem test_step_pattern_out_of_bounds : nextWith (step (probeAt [0x5A, 0x5A, 0xFF, 0x00]))
    (fun t => decide (t.pending = none) && decide (t.overrunCount = 1)) = true := by decide
theorem test_step_start : nextWith (step (asked (.regWrite 0 4 0x0000000B)))
    (fun t => decide (t.ctrl = { mode := true, reorg := false, srcErr := true }) && decide (t.status.word = 1)
      && decide (t.phase = .startCheck)) = true := by decide
theorem test_step_control : nextWith (step (asked (.regWrite 0 4 0x00000008)))
    (fun t => decide (t.ctrl.word = 0x00000008) && decide (t.phase = .idle)) = true := by decide
theorem test_step_raw_chunk_faults : exec .rawChunk (running .tiled .first 163839) = .fault .readOutsideInput := by
  unfold exec execRawChunk
  exact if_neg (by decide)
/-- A1 of the reorganised image: pixel (300, 50) is B(44, 50), (300, 200) is B(108, 72), with reorg off (10, 300) is
B(10, 88) (G4 to G6). -/
theorem test_reorg_places : ∀ m : Memory,
    reorgPixel m 0 300 50 = regionB m 0 44 50 ∧ reorgPixel m 0 300 200 = regionB m 0 108 72 ∧
    verbatimPixel m 0 10 300 = regionB m 0 10 88 := fun _ => ⟨rfl, rfl, rfl⟩

/-! Reconstruction: Q2 to Q4, Q7, table T-IDCT-DC, the single AC term, and the colours of section 2.6. -/

theorem test_dequant : dequantDc referenceConfig 1044 = 2047 ∧ dequantDc referenceConfig (-1024) = -2048 ∧
    dequantAc referenceConfig 10 1 3 = 60 ∧ dequantAc referenceConfig 1 3 (-1) = -2 := by decide
theorem test_idct_one : (List.range 8).map (idct1d referenceConfig [4, 0, 0, 0, 0, 0, 0, 0]) = [1, 1, 1, 1, 1, 1, 1, 1] := by
  decide
theorem test_idct_single_ac : slice8 (idct2d referenceConfig (0 :: 64 :: List.replicate 62 0)) 8 1 =
    [11, 10, 6, 2, -2, -6, -10, -11] := by decide +kernel
theorem test_colours : pixelColour referenceConfig 100 (-20) 30 = 0x2151 ∧ pixelColour referenceConfig 255 127 127 = 0x7DFF ∧
    pixelColour referenceConfig 0 (-128) (-128) = 0x0200 ∧ pixelColour referenceConfig 255 (-128) 127 = 0x0F5F := by decide

/-! Witnesses: for each statement with hypotheses, states and operands that meet them. -/

/-- The engine has the turn in a run without host actions. -/
theorem turn_running (p : Phase) (g : Stage) (n : Nat) : EngineTurn (running p g n) := ⟨rfl, rfl, rfl⟩
theorem turn_withBytes (b : List Byte) (p : Phase) (g : Stage) (n : Nat) : EngineTurn (withBytes b p g n) :=
  ⟨rfl, rfl, rfl⟩
theorem turn_stream (n v : Nat) (g : Stage) : EngineTurn (stream n v g) := ⟨rfl, rfl, rfl⟩
theorem turn_probeAt (b : List Byte) : EngineTurn (probeAt b) := ⟨rfl, rfl, rfl⟩

/-- The cursor of a placed segment is in its invariant. -/
theorem cursor_stream (n v : Nat) (g : Stage) : CursorOk (stream n v g).mem (stream n v g).cursor := init_ok _ _ _

theorem witness_DecodeEncodedInstruction :
    WellFormed referenceConfig (.acR0L1 true) = true ∧ WellFormed referenceConfig (.esc 63 0x400) = true ∧
    WellFormed referenceConfig .eob = true ∧ WellFormed referenceConfig (.dcf 0x200) = true ∧
    WellFormed referenceConfig (.dcy8 0) = true ∧ WellFormed referenceConfig (.dcc0) = true ∧
    WellFormed referenceConfig (.segHdr 0xFFFF 0x3800 0 1) = true ∧
    WellFormed referenceConfig (.tiledTex 0x10 0x02) = true ∧ WellFormed referenceConfig .rawChunk = true ∧
    WellFormed referenceConfig (.texPrefix 0x5A5A) = true ∧ WellFormed referenceConfig (.start true true true) = true := by
  decide

theorem witness_StreamCodesReadBack :
    (natBits 23 0b11000000000000000000000).length = 23 ∧
    decode referenceConfig .acItem (.bits (natBits 23 0b11000000000000000000000)) = .ok (.acR0L1 false) ∧
    decode referenceConfig .dcFlat (.bits (natBits 23 0)) = .ok (.dcf 0) ∧
    decode referenceConfig .dcLuma (.bits (natBits 23 0b11111101111111100000000)) = .ok (.dcy8 255) ∧
    decode referenceConfig .dcChroma (.bits (natBits 23 0)) = .ok .dcc0 := by decide

theorem witness_AcCodeUnusedSpace : 17 ≤ (natBits 17 31).length ∧ 17 ≤ (natBits 17 32).length ∧
    (natBits 17 31).take 12 = List.replicate 12 false ∧ (natBits 17 32).take 12 ≠ List.replicate 12 false := by decide

theorem witness_DcCodeUnusedPatterns : referenceConfig.dcCode = .candidate ∧ 8 ≤ (natBits 8 0xFE).length ∧
    (natBits 8 0xFE).take 7 = List.replicate 7 true ∧ (natBits 8 0xFE).take 8 ≠ List.replicate 8 true := by decide

theorem witness_StepRunsDecodedInstruction_host : (asked (.regWrite 0 4 5)).host = .regWrite 0 4 5 :: [] ∧
    decodeHost 5 = .start false true false := ⟨rfl, by decide⟩
theorem witness_StepRunsDecodedInstruction_dc : EngineTurn (stream 10 7 .dcItem) ∧
    (stream 10 7 .dcItem).phase = .segDecode ∧ (stream 10 7 .dcItem).stage = .dcItem ∧
    decode (stream 10 7 .dcItem).cfg (dcContext (stream 10 7 .dcItem)) (.bits (lookahead (stream 10 7 .dcItem))) =
      .ok .dcc0 := ⟨turn_stream _ _ _, rfl, rfl, by decide⟩
theorem witness_StepRunsDecodedInstruction_ac : EngineTurn (stream 2 2 .acItem) ∧
    (stream 2 2 .acItem).phase = .segDecode ∧ (stream 2 2 .acItem).stage = .acItem ∧
    decode (stream 2 2 .acItem).cfg .acItem (.bits (lookahead (stream 2 2 .acItem))) = .ok .eob :=
  ⟨turn_stream _ _ _, rfl, rfl, by decide⟩

/-- A segmented run at the header of P2, with exactly 8 bytes left. -/
def header8 : State := withBytes [0x00, 0x00, 0x00, 0x38, 0x08, 0x00, 0x03, 0x00] .segHdr .first 8

theorem witness_StepRunsDecodedInstruction_header : EngineTurn header8 ∧ header8.phase = .segHdr ∧
    header8.cur < header8.inLen.toNat ∧
    decode header8.cfg .segHdr (.bytes (header8.mem.bytes header8.cur (min 8 (header8.inLen.toNat - header8.cur)))) =
      .ok (.segHdr 0 0x3800 8 3) := ⟨turn_withBytes _ _ _ _, rfl, by decide, by decide⟩

/-- A tiled run at a texture header, with exactly 8 bytes left. -/
def texture8 : State := withBytes [0x10, 0, 0, 0, 0x08, 0, 0, 0] .tiled .first 8

theorem witness_StepRunsDecodedInstruction_tiled : EngineTurn texture8 ∧ texture8.phase = .tiled ∧
    texture8.stage ≠ .advance ∧ texture8.stage ≠ .terminal ∧ texture8.cur < texture8.inLen.toNat ∧
    decode texture8.cfg (.tiled (texture8.inLen.toNat - texture8.cur))
      (.bytes (texture8.mem.bytes texture8.cur (min 8 (texture8.inLen.toNat - texture8.cur)))) =
      .ok (.tiledTex 0x10 0x08) := ⟨turn_withBytes _ _ _ _, rfl, by decide, by decide, by decide, by decide⟩
theorem witness_StepRunsDecodedInstruction_probe : EngineTurn (probeAt [0xA5, 0xA5]) ∧
    (probeAt [0xA5, 0xA5]).phase = .segProbe ∧
    decode (probeAt [0xA5, 0xA5]).cfg .probe (.bytes ((probeAt [0xA5, 0xA5]).mem.bytes (probeOffset (probeAt [0xA5, 0xA5]))
      (min 2 (segmentEnd (probeAt [0xA5, 0xA5]) - probeOffset (probeAt [0xA5, 0xA5]))))) = .ok (.texPrefix 0xA5A5) :=
  ⟨turn_probeAt _, rfl, by decide⟩

theorem witness_StreamBitsRunTheirInstruction_ac : EngineTurn (stream 17 0b00000000000110111 .acItem) ∧
    CursorOk (stream 17 0b00000000000110111 .acItem).mem (stream 17 0b00000000000110111 .acItem).cursor ∧
    WellFormed referenceConfig (.acR31L1 true) = true ∧
    encode referenceConfig (.acR31L1 true) = .bits (natBits 17 0b00000000000110111) ∧
    StreamBegins (stream 17 0b00000000000110111 .acItem).mem (stream 17 0b00000000000110111 .acItem).cursor
      (natBits 17 0b00000000000110111) ∧
    Instr.context (.acR31L1 true) = .acItem :=
  ⟨turn_stream _ _ _, cursor_stream _ _ _, by decide, by decide, by unfold StreamBegins; decide, rfl⟩
theorem witness_StreamBitsRunTheirInstruction_flat : EngineTurn (dcAt 10 0b1000000000 true 0 Pred.zero) ∧
    CursorOk (dcAt 10 0b1000000000 true 0 Pred.zero).mem (dcAt 10 0b1000000000 true 0 Pred.zero).cursor ∧
    WellFormed referenceConfig (.dcf 0x200) = true ∧
    encode referenceConfig (.dcf 0x200) = .bits (natBits 10 0b1000000000) ∧
    StreamBegins (dcAt 10 0b1000000000 true 0 Pred.zero).mem (dcAt 10 0b1000000000 true 0 Pred.zero).cursor
      (natBits 10 0b1000000000) ∧ (dcAt 10 0b1000000000 true 0 Pred.zero).hdr.flat = true :=
  ⟨⟨rfl, rfl, rfl⟩, init_ok _ _ _, by decide, by decide, by unfold StreamBegins; decide, rfl⟩
theorem witness_StreamBitsRunTheirInstruction_luma : EngineTurn (dcAt 6 0b101011 false 5 Pred.zero) ∧
    CursorOk (dcAt 6 0b101011 false 5 Pred.zero).mem (dcAt 6 0b101011 false 5 Pred.zero).cursor ∧
    encode referenceConfig (.dcy3 3) = .bits (natBits 6 0b101011) ∧
    StreamBegins (dcAt 6 0b101011 false 5 Pred.zero).mem (dcAt 6 0b101011 false 5 Pred.zero).cursor
      (natBits 6 0b101011) ∧ referenceConfig.blockRole[(dcAt 6 0b101011 false 5 Pred.zero).blk]? = some .y3 :=
  ⟨⟨rfl, rfl, rfl⟩, init_ok _ _ _, by decide, by unfold StreamBegins; decide, rfl⟩
theorem witness_StreamBitsRunTheirInstruction_chroma : EngineTurn (stream 4 0b1000 .dcItem) ∧
    CursorOk (stream 4 0b1000 .dcItem).mem (stream 4 0b1000 .dcItem).cursor ∧
    encode referenceConfig (.dcc2 0) = .bits (natBits 4 0b1000) ∧
    StreamBegins (stream 4 0b1000 .dcItem).mem (stream 4 0b1000 .dcItem).cursor (natBits 4 0b1000) ∧
    (stream 4 0b1000 .dcItem).hdr.flat = false ∧ referenceConfig.blockRole[(stream 4 0b1000 .dcItem).blk]? = some .cr :=
  ⟨turn_stream _ _ _, cursor_stream _ _ _, by decide, by unfold StreamBegins; decide, rfl, rfl⟩

/-- The engine has the turn at a code of another table, the cursor is in its invariant, and the tables are legal. -/
theorem turn_coded (n v : Nat) (g : Stage) (b : Nat) : EngineTurn (coded n v g b) ∧
    CursorOk (coded n v g b).mem (coded n v g b).cursor ∧ (coded n v g b).hdr.flat = false ∧
    (coded n v g b).cfg.acCode.legal = true ∧ (coded n v g b).cfg.dcCode.legal = true :=
  ⟨⟨rfl, rfl, rfl⟩, init_ok _ _ _, rfl, show otherCodes.acCode.legal = true by decide,
    show otherCodes.dcCode.legal = true by decide⟩

/-- The words of the other DC code. -/
theorem nextDcWord_coded (n v : Nat) (g : Stage) (b : Nat) (luma : Bool) (len : Nat) (delta : Int) :
    NextDcWord (coded n v g b) luma len delta ↔ ⟨nextBits (coded n v g b) len, delta⟩ ∈
      (if luma then [⟨[false], 7⟩, ⟨[true], -7⟩] else [⟨[false], 1⟩, ⟨List.replicate 17 true, 2⟩] : List DcRow) := Iff.rfl

theorem witness_AcTableItems_table : otherCodes.acCode = .table [⟨[false, true, true], 2, 3⟩] [true] [false, false] ∧
    StreamBegins (coded 4 0b0111 .acItem 0).mem (coded 4 0b0111 .acItem 0).cursor ([false, true, true] ++ [true]) :=
  ⟨rfl, by unfold StreamBegins; decide⟩
theorem witness_EscapeItems_tokens : referenceConfig.acCode = .spec
    ∧ ((Token.ac 2 (-1)).stream? referenceConfig).isSome = true ∧ ((Token.acStar 2 (-1)).stream? referenceConfig).isSome = true
    ∧ ((Token.esc 2 (-1)).stream? referenceConfig).isSome = true
    ∧ ((Token.acStar 63 (-1024)).stream? referenceConfig).isSome = true
    ∧ ((Token.esc 63 1023).stream? referenceConfig).isSome = true
    ∧ ((Token.acStar 0 0).stream? referenceConfig).isSome = true := by decide
theorem witness_EscapeItems_table : StreamBegins (coded 19 0b0011111110000000000 .acItem 0).mem
    (coded 19 0b0011111110000000000 .acItem 0).cursor
    ([false, false] ++ natBits 6 (63 : BitVec 6).toNat ++ natBits 11 (0x400 : BitVec 11).toNat) := by
  unfold StreamBegins; decide
theorem witness_EndOfBlockItem_table :
    StreamBegins (coded 1 1 .acItem 0).mem (coded 1 1 .acItem 0).cursor [true] := by unfold StreamBegins; decide
theorem witness_LumaDcItems_table : (coded 1 1 .dcItem 2).channel = .y ∧ NextDcWord (coded 1 1 .dcItem 2) true 1 (-7) := by
  simp only [nextDcWord_coded]; decide
theorem witness_ChromaDcItems_table : (coded 17 0x1FFFF .dcItem 0).channel = .cr ∧
    NextDcWord (coded 17 0x1FFFF .dcItem 0) false 17 2 ∧ (coded 1 0 .dcItem 1).channel = .cb ∧
    NextDcWord (coded 1 0 .dcItem 1) false 1 1 := by
  simp only [nextDcWord_coded]; decide

/-- A DC item under the free code: its next bits are a word, or DcMismatchStep's second case applies. -/
theorem witness_free_dc_code : (DcCode.free).legal = true ∧ DcCode.free ≠ .candidate ∧
    ((∃ len delta, NextDcWord { coded 1 1 .dcItem 2 with cfg := { otherCodes with dcCode := .free } } true len delta)
      ∨ ∀ len delta, ¬ NextDcWord { coded 1 1 .dcItem 2 with cfg := { otherCodes with dcCode := .free } } true len delta) := by
  refine ⟨rfl, by decide, ?_⟩
  by_cases h : ∃ len delta,
      NextDcWord { coded 1 1 .dcItem 2 with cfg := { otherCodes with dcCode := .free } } true len delta
  · exact Or.inl h
  · exact Or.inr fun len delta hn => h ⟨len, delta, hn⟩

theorem witness_AcTableItems : Instr.context (.acR0L1 true) = .acItem ∧
    (acTable.map fun e => (e.codeLen, e.run, e.mag))[110]? = some (16, 31, 1) ∧
    (acAt 3 6 31).k ≠ 64 ∧ (acAt 3 6 31).k + 31 + 1 ≤ 63 ∧ 63 < (acAt 3 6 32).k + 31 + 1 ∧ (acAt 3 6 64).k = 64 := by
  decide
theorem witness_LumaDcItems : Instr.context (.dcy5 31) = .dcLuma ∧
    dcLumaTable.map (fun e => (e.codeLen, e.size)) =
      [(3, 0), (2, 1), (2, 2), (3, 3), (3, 4), (4, 5), (5, 6), (6, 7), (7, 8)] ∧
    (0 : Nat) < 2 ^ 0 ∧ 2 ^ (8 - 1) ≤ 128 ∧ 128 < 2 ^ 8 ∧ 127 < 2 ^ (8 - 1) ∧ (127 : Int) - (2 ^ 8 - 1) = -128 := by decide
theorem witness_ChromaDcItems : Instr.context (.dcc1 0) = .dcChroma ∧
    dcChromaTable.map (fun e => (e.codeLen, e.size)) =
      [(2, 0), (2, 1), (2, 2), (3, 3), (4, 4), (5, 5), (6, 6), (7, 7), (8, 8)] ∧
    (stream 4 8 .dcItem).channel = .cr ∧ (dcAt 4 8 false 1 Pred.zero).channel = .cb ∧
    (dcAt 4 8 false 2 Pred.zero).channel = .y := by decide

theorem witness_RawChunkImages : (running .tiled .first 163840).cur + 163840 ≤ (running .tiled .first 163840).inLen.toNat ∧
    (running .tiled .first 163840).ctrl.reorg = true ∧
    (setControl false false false (running .tiled .first 163840)).ctrl.reorg = false ∧
    (319 < 320 ∧ 255 < 256 ∧ ¬ 319 < 256 ∧ ¬ 128 < 128) := by decide
theorem witness_RawChunkWithoutRoomFaults :
    (running .tiled .first 163839).inLen.toNat < (running .tiled .first 163839).cur + 163840 := by decide

theorem witness_TexturePatternRecord :
    BytesAt (probeAt [0xA5, 0xA5, 4, 0]).mem ((probeAt [0xA5, 0xA5, 4, 0]).cur + 8 + 2 * ((0 + 15) / 16)) 4
      [0xA5, 0xA5, 4, 0] ∧
    texRecordAt referenceConfig [0xA5, 0xA5, 4] 8 = none ∧
    texRecordAt referenceConfig [0xA5, 0xA5, 0, 0] 8 = some (8, 0) ∧
    texRecordAt referenceConfig [0xA5, 0xA5, 4, 0] 8 = some (8, 4) ∧ 8 + 4 ≤ segmentEnd (probeAt [0xA5, 0xA5, 4, 0]) ∧
    texRecordAt referenceConfig [0xA5, 0xA5, 5, 0] 8 = some (8, 5) ∧ segmentEnd (probeAt [0xA5, 0xA5, 5, 0]) < 8 + 5 ∧
    texRecordAt { referenceConfig with texRecord := .lengthField 2 2 1 0 (-1) } [0xA5, 0xA5, 4, 0] 8 = some (7, 4) ∧ 7 < 8 :=
  ⟨by unfold BytesAt; decide, by decide, by decide, by decide, by decide, by decide, by decide, by decide, by decide⟩

theorem witness_StartCommand : State.reset.status.busy = false := rfl
theorem witness_ControlSetCommand : (runEnd .endOfInput (running .tiled .first 0)).status.busy = false := rfl
theorem witness_ControlWritesIgnoredWhileBusy : (running .tiled .first 0).status.busy = true ∧
    (∀ j, j < 4 → (0x0000000D : Word).getLsbD j = (0xFFFFFFFD : Word).getLsbD j) ∧
    (0x0000000D : Word).getLsbD 0 = true ∧ (0x0000000A : Word).getLsbD 0 = false := by decide

/-- A run at its first checks, with the MODE and SRC_ERR given and a capacity of `cap` pixels. -/
def checks (mode srcErr : Bool) (cap : Nat) : State :=
  setControl mode true srcErr
    { running .startCheck .first 0 with cfg := { referenceConfig with frameCapacity := cap } }

theorem witness_RunStartChecks : EngineTurn (checks false true 81920) ∧ (checks false true 81920).ctrl.srcErr = true ∧
    EngineTurn (checks true false 255) ∧ (checks true false 255).ctrl.srcErr = false ∧
    (checks true false 255).cfg.frameCapacity < 16 * 16 ∧
    EngineTurn (checks false false 81920) ∧ 81920 ≤ (checks false false 81920).cfg.frameCapacity ∧
    (checks false false 81920).phase = .startCheck :=
  ⟨⟨rfl, rfl, rfl⟩, rfl, ⟨rfl, rfl, rfl⟩, rfl, by decide, ⟨rfl, rfl, rfl⟩, by decide, rfl⟩
theorem witness_RunEndRecord :
    (true = true ↔ EndReason.ioError = .ioError ∨ EndReason.ioError = .allocFailure) ∧
    (false = true ↔ EndReason.vlcMismatch = .ioError ∨ EndReason.vlcMismatch = .allocFailure) := by decide

/-- A tiled run at a chunk that begins with a 1, with `n` bytes of input. -/
def chunk (n : Nat) : State := withBytes [1] .tiled .first n

theorem witness_TiledChunkStep : EngineTurn (chunk 0) ∧ (chunk 0).inLen.toNat ≤ (chunk 0).cur ∧
    texture8.cur + 8 ≤ texture8.inLen.toNat ∧ texture8.mem.memRead texture8.cur 4 = texture8.cfg.texMagic.toNat ∧
    BitVec.ofNat 32 (texture8.mem.memRead (texture8.cur + 4) 4) ∈ texture8.cfg.texTypes ∧
    (chunk 163840).mem.memRead 0 4 ≠ (chunk 163840).cfg.texMagic.toNat ∧
    (chunk 163840).cur + 163840 ≤ (chunk 163840).inLen.toNat ∧
    (chunk 163839).inLen.toNat < (chunk 163839).cur + 163840 ∧ (chunk 163839).cur < (chunk 163839).inLen.toNat :=
  ⟨turn_withBytes _ _ _ _, by decide, by decide, by decide, by decide, by decide, by decide, by decide, by decide⟩
theorem witness_StepsAfterAccept : EngineTurn (running .tiled .advance 0) ∧ EngineTurn (running .tiled .terminal 0) ∧
    EngineTurn (running .segDecode .toProbe 0) := ⟨turn_running _ _ _, turn_running _ _ _, turn_running _ _ _⟩

/-- A segmented run at the 8 bytes given with `n` bytes of input. -/
def headerAt (b : List Byte) (n : Nat) : State := withBytes b .segHdr .first n

theorem witness_SegmentHeaderStep : EngineTurn (headerAt [] 0) ∧ (headerAt [] 0).inLen.toNat ≤ (headerAt [] 0).cur ∧
    (headerAt [] 7).cur < (headerAt [] 7).inLen.toNat ∧ (headerAt [] 7).inLen.toNat < (headerAt [] 7).cur + 8 ∧
    half (headerAt [0, 0, 0, 0x38, 1, 0, 4, 0] 8).mem 2 = referenceConfig.segTypeId ∧
    half (headerAt [0, 0, 0, 0x38, 1, 0, 4, 0] 8).mem 6 ∉ referenceConfig.validVersions ∧
    half header8.mem 2 = header8.cfg.segTypeId ∧ half header8.mem 6 ∈ header8.cfg.validVersions ∧
    header8.cur + 8 ≤ header8.inLen.toNat :=
  ⟨turn_withBytes _ _ _ _, by decide, by decide, by decide, by decide, by decide, by decide, by decide, by decide⟩
theorem witness_SegmentInitStep : EngineTurn (running .segDecode .first 18) ∧
    (running .segDecode .first 18).phase = .segDecode ∧ (running .segDecode .first 18).cfg.mbCount = 1 :=
  ⟨turn_running _ _ _, rfl, by decide⟩
theorem witness_AcMismatchStep : EngineTurn (stream 17 31 .acItem) ∧ (stream 17 31 .acItem).cfg.acCode = .spec ∧
    CursorOk (stream 17 31 .acItem).mem (stream 17 31 .acItem).cursor ∧
    StreamBegins (stream 17 31 .acItem).mem (stream 17 31 .acItem).cursor (List.replicate 12 false) :=
  ⟨turn_stream _ _ _, rfl, cursor_stream _ _ _, by unfold StreamBegins; decide⟩

/-- 010 begins no code of the other AC table, 10 no chroma word of the other DC code. -/
theorem witness_AcMismatchStep_table : ∀ code ∈ [true] :: [false, false] :: [[false, true, true]],
    ¬ StreamBegins (coded 3 0b010 .acItem 0).mem (coded 3 0b010 .acItem 0).cursor code := by
  unfold StreamBegins; decide
theorem witness_DcMismatchStep_table : otherCodes.dcCode ≠ .candidate ∧
    (decide ((coded 2 0b10 .dcItem 0).channel = .y) = false) ∧
    ∀ len delta, ¬ NextDcWord (coded 2 0b10 .dcItem 0) false len delta := by
  refine ⟨by decide, by decide, fun len delta h => ?_⟩
  rw [nextDcWord_coded] at h
  have hl : len = 1 ∨ len = 17 := by
    have hs : ∀ row ∈ [(⟨[false], 1⟩ : DcRow), ⟨List.replicate 17 true, 2⟩], row.code.length = 1 ∨ row.code.length = 17 := by
      decide
    simpa [nextBits] using hs _ h
  have hb : ∀ row ∈ [(⟨[false], 1⟩ : DcRow), ⟨List.replicate 17 true, 2⟩],
      row.code ≠ nextBits (coded 2 0b10 .dcItem 0) 1 ∧ row.code ≠ nextBits (coded 2 0b10 .dcItem 0) 17 := by decide
  rcases hl with rfl | rfl
  · exact (hb _ h).1 rfl
  · exact (hb _ h).2 rfl

/-- DC15 and DC16: seven ones at a luma block, eight ones at a chroma block. -/
theorem witness_DcMismatchStep : EngineTurn (dcAt 8 0xFE false 2 Pred.zero) ∧ EngineTurn (dcAt 9 0x1FE false 0 Pred.zero) ∧
    (dcAt 8 0xFE false 2 Pred.zero).channel = .y ∧ (dcAt 9 0x1FE false 0 Pred.zero).channel ≠ .y ∧
    CursorOk (dcAt 8 0xFE false 2 Pred.zero).mem (dcAt 8 0xFE false 2 Pred.zero).cursor ∧
    StreamBegins (dcAt 8 0xFE false 2 Pred.zero).mem (dcAt 8 0xFE false 2 Pred.zero).cursor (List.replicate 7 true) ∧
    StreamBegins (dcAt 9 0x1FE false 0 Pred.zero).mem (dcAt 9 0x1FE false 0 Pred.zero).cursor (List.replicate 8 true) :=
  ⟨⟨rfl, rfl, rfl⟩, ⟨rfl, rfl, rfl⟩, by decide, by decide, init_ok _ _ _, by unfold StreamBegins; decide,
    by unfold StreamBegins; decide⟩

/-- The stages of the macroblock loop after the items. -/
theorem witness_BlockReconstructStep : EngineTurn (running .segDecode .reconstruct 0) ∧
    (running .segDecode .reconstruct 0).poisoned = false ∧ 1 ≤ 63 ∧ 63 < 64 :=
  ⟨turn_running _ _ _, rfl, by decide, by decide⟩
theorem witness_TileAndPlaceStep : EngineTurn (running .segDecode .mergePlace 0) := turn_running _ _ _
theorem witness_FrameEmitStep : EngineTurn (running .segDecode .emitFrame 0) := turn_running _ _ _
theorem witness_TextureProbeStep : EngineTurn (probeAt [0xA5, 0xA5]) ∧ 8 + 2 ≤ segmentEnd (probeAt [0xA5, 0xA5]) ∧
    half (probeAt [0xA5, 0xA5]).mem 8 ∈ referenceConfig.texPrefixes ∧ segmentEnd (probeAt [0xA5]) < 8 + 2 ∧
    half (probeAt [0xA5, 0x5A]).mem 8 ∉ referenceConfig.texPrefixes :=
  ⟨turn_probeAt _, by decide, by decide, by decide, by decide⟩

theorem witness_DequantAndLevelShift : referenceConfig.dequant = .spec ∧ referenceConfig.levelShift = .spec ∧
    1 ≤ 63 ∧ 63 < 64 := by decide
theorem witness_ZigzagScatter : referenceConfig.zigzag.length = 64 ∧ (∀ p ∈ referenceConfig.zigzag, p < 64) ∧
    referenceConfig.legal = true ∧ 63 < 64 := by decide
/-- A ZIGZAG that is no permutation: the positions 1 to 63 all name 1. -/
def collapsedZigzag : Config := { referenceConfig with zigzag := 0 :: List.replicate 63 1 }
theorem witness_ZigzagScatter_collapsed : collapsedZigzag.legal = false ∧ collapsedZigzag.zigzag.length = 64 ∧
    (∀ p ∈ collapsedZigzag.zigzag, p < 64) ∧
    ∀ j, j < 64 → 0 < j → collapsedZigzag.zigzag.getD j 0 ≠ collapsedZigzag.zigzag.getD 0 0 := by decide
theorem witness_ZigzagScatter_terms : (List.replicate 64 (1 : Int)).length = 64 := List.length_replicate
theorem witness_InverseDctPasses : referenceConfig.idct = .spec ∧ 7 < 8 := by decide
theorem witness_DcOnlyBlockIsFlat : referenceConfig.dequant = .spec ∧ referenceConfig.idct = .spec ∧
    referenceConfig.zigzag = zigzagTable ∧ -1024 = dequantDc referenceConfig (-512) ∧
    (-128 : Int) = (1448 * ((1448 * (-1024) + 2048) / 4096) + 2048) / 4096 := by decide
theorem witness_ColourAndPack : referenceConfig.pack = .spec ∧ 255 < 256 ∧ 0 < 256 := by decide
theorem witness_TileMerge : 7 < 8 ∧ ¬ 8 < 8 ∧ 8 < 16 ∧ 15 < 16 := by decide
/-- In a frame 32 pixels wide, (15, 15) is the last pixel of macroblock 0's tile and (16, 15) lies outside it. -/
theorem witness_TilePlacement : 0 < 32 ∧ 32 % 16 = 0 ∧ 0 < (32 / 16) * (16 / 16) ∧ 15 < 16 ∧ 16 < 32 ∧
    ¬ 16 < 16 * (0 % (32 / 16)) + 16 := by decide
theorem witness_TilePlacement_lists : (List.replicate 256 (0 : Half)).length = 256 ∧
    (List.replicate (32 * 16) (0 : Half)).length = 32 * 16 := ⟨List.length_replicate, List.length_replicate⟩
theorem witness_FrameCoverage : (15 < referenceConfig.frameW ∧ 15 < referenceConfig.frameH) := by decide
theorem witness_ReorgPermutation : 319 < 320 ∧ 255 < 256 ∧ reorgIndex 319 255 = 81919 ∧ reorgIndex 256 128 = 65600 := by decide
theorem witness_CursorOperations : (1 ≤ 1 ∧ 17 ≤ 17) ∧ 0 < c1.avail - (15 : Nat) ∧ c1.avail - (16 : Nat) ≤ 0 := by decide
theorem witness_GetBitsReadTheStream : (∀ n ∈ [1, 16, 3], 1 ≤ n ∧ n ≤ 16) ∧ byteOfBit 8 8 < 9 ∧ 9 ≤ byteOfBit 8 7 := by
  decide

theorem witness_HostRegisterReads : (asked (.regRead 0x3C 4)).host = .regRead 0x3C 4 :: [] ∧ 0x3C % 4 = 0 ∧
    (asked (.regRead 0x04 4)).host = .regRead 0x04 4 :: [] ∧ 0x28 ≤ 0x3C := ⟨rfl, rfl, rfl, by decide⟩
theorem witness_HostRegisterWrites : (asked (.regWrite 0x08 4 9)).host = .regWrite 0x08 4 9 :: [] ∧ 0x08 % 4 = 0 ∧
    (asked (.regWrite 0x3C 4 9)).host = .regWrite 0x3C 4 9 :: [] := ⟨rfl, rfl, rfl⟩
theorem witness_NonWordAccessRefused : (asked (.regRead 0x40 4)).host = .regRead 0x40 4 :: [] ∧ ¬ 0x40 ≤ 0x3C ∧
    (asked (.regWrite 2 4 0)).host = .regWrite 2 4 0 :: [] ∧ 2 % 4 ≠ 0 ∧
    (asked (.regWrite 0 2 0)).host = .regWrite 0 2 0 :: [] := ⟨rfl, by decide, rfl, by decide, rfl⟩
theorem witness_AcceptHandsOver : (asked .accept).host = .accept :: [] ∧ (asked .accept).status.busy = false ∧
    (handOverUnknown (chunk 1)).status.hold = true ∧ (chunk 1).status.busy = true ∧ (chunk 1).status.hold = false :=
  ⟨rfl, rfl, rfl, rfl, rfl⟩
theorem witness_InWriteStoresOneByte : (asked (.inWrite 4294967294 7)).host = .inWrite 4294967294 7 :: [] ∧
    (asked (.inWrite 4294967294 7)).status.busy = false ∧ 4294967294 < (asked (.inWrite 4294967294 7)).cfg.inMax ∧
    (asked (.inWrite 4294967295 7)).cfg.inMax ≤ 4294967295 ∧ (asked (.inWrite 0 7)).mem.wf = true :=
  ⟨rfl, rfl, by decide, by decide, rfl⟩
theorem witness_ResetInputClearsTheRun : (asked .reset).host = .reset :: [] := rfl
theorem witness_EngineRestsWhenNotEnabled : State.reset.host = [] ∧ State.reset.status.busy = false ∧
    (handOverUnknown (chunk 1)).host = [] ∧ (handOverUnknown (chunk 1)).status.hold = true := ⟨rfl, rfl, rfl, rfl⟩

/-- A good state whose next step is a next state: an AC item in a segment. -/
theorem status_stream : StatusOk (stream 3 6 .acItem) := by
  constructor <;> decide
theorem witness_MemoryStaysCanonical : (stream 3 6 .acItem).mem.wf = true ∧ ∃ t, step (stream 3 6 .acItem) = .next t :=
  ⟨by decide, _, rfl⟩
theorem witness_StatusStaysConsistent : StatusOk (stream 3 6 .acItem) ∧ ∃ t, step (stream 3 6 .acItem) = .next t :=
  ⟨status_stream, _, rfl⟩
theorem witness_CursorStaysInStep : StatusOk (stream 3 6 .acItem) ∧ CursorLive (stream 3 6 .acItem) ∧
    CursorOk (stream 3 6 .acItem).mem (stream 3 6 .acItem).cursor ∧ ∃ t, step (stream 3 6 .acItem) = .next t :=
  ⟨status_stream, Or.inl ⟨rfl, rfl⟩, cursor_stream _ _ _, _, rfl⟩
theorem witness_BuffersStayInRange : BuffersOk { stream 3 6 .acItem with frame := List.replicate 256 0 } := by
  refine ⟨by decide, by decide, fun _ _ => by decide, rfl, ?_, List.length_replicate, fun _ => List.length_replicate,
    fun h => by cases h⟩
  intro r
  cases r <;> exact ⟨List.length_replicate, fun v hv => by rw [List.eq_of_mem_replicate hv]; simp [Role.channel]⟩
theorem witness_OnlyInWriteChangesInput : ∃ t, step (asked (.inWrite 5 7)) = .next t ∧ t.mem = [(5, 7)] := ⟨_, rfl, rfl⟩
theorem witness_RunProgressIsMonotone : (stream 3 6 .acItem).status.busy = true ∧
    turn (stream 3 6 .acItem) ≠ .host .reset ∧ ∃ t, step (stream 3 6 .acItem) = .next t :=
  ⟨rfl, by decide, _, rfl⟩

end Sys2Proof.Tests
end

section
/-! PROOFS. The AC items that are no row of AC_TABLE (O9 EscapeItems, O10 EndOfBlockItem) and RAW_CHUNK without a whole
chunk (O17). The facts about the decoder and the tokens come first, each said once. -/

namespace Sys2Proof

/-! The operand fields of an escape. -/

/-- The run and level fields that the decoder cuts out behind an ESC_CODE are those the escape was written with (R109). -/
theorem escape_fields (code more : List Bool) (run : BitVec 6) (level : BitVec 11) :
    BitVec.ofNat 6 (bitField (code ++ natBits 6 run.toNat ++ natBits 11 level.toNat ++ more) code.length 6) = run
    ∧ BitVec.ofNat 11 (bitField (code ++ natBits 6 run.toNat ++ natBits 11 level.toNat ++ more) (code.length + 6) 11)
      = level := by
  constructor
  · have h := bitField_append code (natBits 6 run.toNat) (natBits 11 level.toNat ++ more)
    rw [natBits_length, ← List.append_assoc] at h
    rw [h, bitsNat_natBits, Nat.mod_eq_of_lt run.isLt, BitVec.ofNat_toNat, BitVec.setWidth_eq]
  · have h := bitField_append (code ++ natBits 6 run.toNat) (natBits 11 level.toNat) more
    rw [List.length_append, natBits_length, natBits_length] at h
    rw [h, bitsNat_natBits, Nat.mod_eq_of_lt level.isLt, BitVec.ofNat_toNat, BitVec.setWidth_eq]

theorem isPrefixOf_append_self (code more : List Bool) : code.isPrefixOf (code ++ more) = true :=
  List.isPrefixOf_iff_prefix.2 (List.prefix_append code more)

/-! The decoder under the table of R110. -/

/-- The code of an AC_TABLE row, without its sign bit (R110). -/
def AcEntry.codeBits (e : AcEntry) : List Bool := natBits e.codeLen e.code

@[simp] theorem AcEntry.codeBits_length (e : AcEntry) : e.codeBits.length = e.codeLen := natBits_length _ _

/-- The rest of a code behind its first bit, when that bit is `x`. -/
def restAfter (x : Bool) : List Bool → Option (List Bool)
  | [] => none
  | y :: r => if y = x then some r else none

/-- A check that no code begins another, which splits the codes by their first bits, so that it reads each bit once where
`codesPrefixFree` compares all pairs. -/
def splitsApart : Nat → List (List Bool) → Bool
  | 0, codes => decide (codes.length ≤ 1)
  | n + 1, codes => decide (codes.length ≤ 1) || (codes.all (fun c => !c.isEmpty)
      && splitsApart n (codes.filterMap (restAfter true)) && splitsApart n (codes.filterMap (restAfter false)))

/-- Of codes that split apart none begins another. -/
theorem codesPrefixFree_of_splitsApart {n : Nat} {codes : List (List Bool)} (h : splitsApart n codes = true) :
    codesPrefixFree codes = true := by
  have single : ∀ l : List (List Bool), l.length ≤ 1 → l.Pairwise fun a b => ¬ a.isPrefixOf b ∧ ¬ b.isPrefixOf a
    | [], _ => .nil
    | [_], _ => List.pairwise_singleton _ _
  refine decide_eq_true ?_
  induction n generalizing codes with
  | zero => exact single codes (of_decide_eq_true h)
  | succ n ih =>
    simp only [splitsApart, Bool.or_eq_true, Bool.and_eq_true, decide_eq_true_eq, List.all_eq_true] at h
    rcases h with hlen | ⟨⟨hne, ht⟩, hf⟩
    · exact single codes hlen
    · have hrest : ∀ x, codes.Pairwise fun a b => ∀ a', restAfter x a = some a' → ∀ b', restAfter x b = some b' →
          ¬ a'.isPrefixOf b' ∧ ¬ b'.isPrefixOf a'
        | true => List.pairwise_filterMap.1 (ih ht)
        | false => List.pairwise_filterMap.1 (ih hf)
      refine ((hrest true).and (hrest false)).imp_of_mem fun {a b} ha hb hab => ?_
      obtain ⟨x, a', rfl⟩ := List.exists_cons_of_ne_nil (by simpa using hne a ha)
      obtain ⟨y, b', rfl⟩ := List.exists_cons_of_ne_nil (by simpa using hne b hb)
      by_cases hxy : x = y
      · subst hxy
        have hsame : ¬ a'.isPrefixOf b' ∧ ¬ b'.isPrefixOf a' := match x with
          | true => hab.1 a' rfl b' rfl
          | false => hab.2 a' rfl b' rfl
        simpa [List.isPrefixOf] using hsame
      · simp [List.isPrefixOf, hxy, Ne.symm hxy]

/-- EOB_CODE, ESC_CODE and the codes of R110 are free of prefixes of one another (R111). -/
theorem acTable_prefixFree : codesPrefixFree (eobCode :: escCode :: acTable.map AcEntry.codeBits) = true :=
  codesPrefixFree_of_splitsApart (n := 17) (by decide)

/-- Where no two codes of a list begin the same bits, the row whose code begins the bits is found. -/
theorem findAc_of_mem {b : List Bool} {e : AcEntry} (hb : e.codeBits.isPrefixOf b = true) :
    ∀ {l : List AcEntry}, (l.map AcEntry.codeBits).Pairwise
        (fun x y => ∀ m : List Bool, ¬ (x.isPrefixOf m = true ∧ y.isPrefixOf m = true)) → e ∈ l →
    findAc l b = some (e.instr (b.getD e.codeLen false))
  | [], _, hm => by simp at hm
  | d :: l, hp, hm => by
    rw [List.map_cons, List.pairwise_cons] at hp
    unfold findAc
    rcases List.mem_cons.1 hm with rfl | hm
    · exact if_pos hb
    · have hd : ¬ d.codeBits.isPrefixOf b = true := fun h => hp.1 _ (List.mem_map_of_mem hm) b ⟨h, hb⟩
      exact (if_neg hd).trans (findAc_of_mem hb hp.2 hm)

/-- A row of R110 and its sign bit decode to the row's instruction, whatever follows (R192). -/
theorem decodeAc_spec_row {e : AcEntry} (he : e ∈ acTable) (neg : Bool) (more : List Bool) :
    decodeAc .spec (e.codeBits ++ [neg] ++ more) = .ok (e.instr neg) := by
  obtain ⟨heob, hp⟩ := List.pairwise_cons.1 (codesPrefixFree_pairwise acTable_prefixFree)
  obtain ⟨hesc, hrows⟩ := List.pairwise_cons.1 hp
  have hc : e.codeBits ∈ acTable.map AcEntry.codeBits := List.mem_map_of_mem he
  have hb : e.codeBits.isPrefixOf (e.codeBits ++ [neg] ++ more) = true := by
    rw [List.append_assoc]; exact isPrefixOf_append_self _ _
  have hnoEob : ¬ eobCode.isPrefixOf (e.codeBits ++ [neg] ++ more) = true := fun h =>
    heob _ (List.mem_cons_of_mem _ hc) _ ⟨h, hb⟩
  have hnoEsc : ¬ escCode.isPrefixOf (e.codeBits ++ [neg] ++ more) = true := fun h => hesc _ hc _ ⟨h, hb⟩
  have hsign : (e.codeBits ++ [neg] ++ more).getD e.codeLen false = neg := by
    rw [List.append_assoc, List.getD_append_right _ _ _ _ (by simp), e.codeBits_length, Nat.sub_self]
    rfl
  simp only [decodeAc, hnoEob, hnoEsc, if_false, Bool.false_eq_true, findAc_of_mem hb hrows he, hsign]

/-- ESC_CODE, a run field and a level field decode to that escape, whatever follows (R109, R193). -/
theorem decodeAc_spec_escape (run : BitVec 6) (level : BitVec 11) (more : List Bool) :
    decodeAc .spec (escCode ++ natBits 6 run.toNat ++ natBits 11 level.toNat ++ more) = .ok (.esc run level) := by
  obtain ⟨hrun, hlevel⟩ := escape_fields escCode more run level
  have hnoEob : eobCode.isPrefixOf (escCode ++ natBits 6 run.toNat ++ natBits 11 level.toNat ++ more) = false := rfl
  have hesc : escCode.isPrefixOf (escCode ++ natBits 6 run.toNat ++ natBits 11 level.toNat ++ more) = true := rfl
  simp only [decodeAc, hnoEob, hesc, if_true, if_false, Bool.false_eq_true]
  exact congrArg₂ (fun r l => Decoded.ok (.esc r l)) hrun hlevel

/-! The decoder under another AC_TABLE. -/

/-- A table's EOB_CODE where it stands (R194). -/
theorem decodeAc_eob {rows : List AcRow} {eob esc b : List Bool} (hb : eob.isPrefixOf b = true) :
    decodeAc (.table rows eob esc) b = .other (.eob eob.length) := if_pos hb

/-- The EOB_CODE and the ESC_CODE of a legal table have at least one bit. -/
theorem legal_table_codes_pos {rows : List AcRow} {eob esc : List Bool} (h : (AcCode.table rows eob esc).legal = true) :
    1 ≤ eob.length ∧ 1 ≤ esc.length := by
  simp only [AcCode.legal, Bool.and_eq_true, Bool.not_eq_true', List.isEmpty_eq_false_iff] at h
  obtain ⟨⟨⟨_, heob⟩, hesc⟩, _⟩ := h
  exact ⟨List.length_pos_iff.2 heob, List.length_pos_iff.2 hesc⟩

end Sys2Proof

namespace Sys2Proof.Machine

/-! The meanings. -/

theorem exec_esc (run : BitVec 6) (level : BitVec 11) (s : State) :
    exec (.esc run level) s = .next (acEscItem 6 run level s) := rfl

theorem exec_eob (s : State) : exec .eob s = .next (acEobItem 2 s) := rfl

/-- Each row's instruction is the AC_VLC item of the row's own numbers (R110, R192). -/
theorem exec_acTable_row : ∀ e ∈ acTable,
    (fun neg s => exec (e.instr neg) s) = fun neg s => .next (acVlcItem e.codeLen e.run e.mag neg s) :=
  List.map_inj_left.1 rfl

theorem acTable_codeLen_le : ∀ e ∈ acTable, e.codeLen ≤ 16 := by decide

/-- A magnitude and a sign bit are the level they were taken from (R107). -/
theorem signedLevel_natAbs (level : Int) : signedLevel (decide (level < 0)) level.natAbs = level := by
  by_cases h : level < 0
  · simp only [signedLevel, h, decide_true, if_true]; omega
  · simp only [signedLevel, h, decide_false, Bool.false_eq_true, if_false]; omega

/-! What a token's bits do. -/

/-- The bits of AC r,l are read as an item that stores l at r + 1 further. -/
theorem acToken_effect {run : Nat} {level : Int} {b : List Bool} (h : acToken .spec run level = some b)
    (more : List Bool) : ∃ i, decodeAc .spec (b ++ more) = .ok i
      ∧ ∀ s : State, ∃ t ws, exec i s = .next t ∧ AcEffect s t ws run level := by
  obtain ⟨_, e, he, rfl, hmag, rfl⟩ := acToken_spec h
  have hlevel : signedLevel (decide (level < 0)) e.mag = level := by rw [hmag, signedLevel_natAbs]
  refine ⟨_, decodeAc_spec_row he _ more, fun s =>
    ⟨_, [e.codeLen, 1], congrFun (congrFun (exec_acTable_row e he) _) s, ?_⟩⟩
  have heff := acVlcItem_effect (acTable_codeLen_le e he) e.run e.mag (decide (level < 0)) s
  rwa [hlevel] at heff

/-- The bits of ESC r,l are read as an escape that stores l at r + 1 further. -/
theorem escToken_effect {run : Nat} {level : Int} {b : List Bool} (h : escToken .spec run level = some b)
    (more : List Bool) : ∃ i, decodeAc .spec (b ++ more) = .ok i
      ∧ ∀ s : State, ∃ t ws, exec i s = .next t ∧ AcEffect s t ws run level := by
  obtain ⟨hrun, hlow, hhigh, rfl⟩ := escToken_some h
  have hr : (BitVec.ofNat 6 run).toNat = run := by rw [BitVec.toNat_ofNat]; omega
  have hl : (BitVec.ofInt 11 level).toInt = level := BitVec.toInt_ofInt_eq_self (by decide) (by simpa using hlow) (by omega)
  have hd := decodeAc_spec_escape (BitVec.ofNat 6 run) (BitVec.ofInt 11 level) more
  rw [hr] at hd
  refine ⟨_, hd, fun s => ⟨_, [6, 6, 11], exec_esc _ _ s, ?_⟩⟩
  have heff := acEscItem_effect (len := 6) (by decide) (BitVec.ofNat 6 run) (BitVec.ofInt 11 level) s
  rwa [hr, hl] at heff

/-- AC* r,l stands for bits under R110's table exactly when ESC r,l does: no row is out of an escape's range (R121). -/
theorem acStar_isSome {c : Config} (hc : c.acCode = .spec) (run : Nat) (level : Int) :
    ((Token.acStar run level).stream? c).isSome = true ↔ run ≤ 63 ∧ -1024 ≤ level ∧ level ≤ 1023 := by
  simp only [Token.stream?, Option.isSome_or, Bool.or_eq_true, escToken_isSome, hc]
  refine ⟨fun h => h.elim (fun hac => ?_) id, Or.inr⟩
  obtain ⟨b, hb⟩ := Option.isSome_iff_exists.1 hac
  obtain ⟨_, e, he, hrun, hmag, _⟩ := acToken_spec hb
  have hfits := acTable_fits e he
  omega

/-! The steps on the EOB_CODE and the ESC_CODE of another table. -/

/-- A step on a table's ESC_CODE with its operands is that escape (R193). -/
theorem step_tableEscape {s : State} {rows : List AcRow} {eob esc : List Bool} (ht : EngineTurn s)
    (hp : s.phase = .segDecode) (hs : s.stage = .acItem) (hc : CursorOk s.mem s.cursor)
    (ha : s.cfg.acCode = .table rows eob esc) (hl : s.cfg.acCode.legal = true) {run : BitVec 6} {level : BitVec 11}
    (hb : StreamBegins s.mem s.cursor (esc ++ natBits 6 run.toNat ++ natBits 11 level.toNat)) :
    step s = .next (acEscItem esc.length run level (popHost s)) := by
  have hreach : esc.length ≤ codeReach s := acCode_le_codeReach ha (by simp)
  have hwin := codeReach_le s
  obtain ⟨rest, hrest⟩ := lookahead_append hc hb (by simp only [List.length_append, natBits_length]; omega)
  obtain ⟨hrun, hlevel⟩ := escape_fields esc rest run level
  have hpre : esc.isPrefixOf (esc ++ natBits 6 run.toNat ++ natBits 11 level.toNat ++ rest) = true := by
    rw [List.append_assoc, List.append_assoc]; exact isPrefixOf_append_self _ _
  have hd := decodeAc_escape (ha ▸ hl) hpre
  rw [hrun, hlevel, ← ha, ← hrest] at hd
  exact step_acTable ht hp hs hd

/-- A step on a table's EOB_CODE is that end of block (R194). -/
theorem step_tableEob {s : State} {rows : List AcRow} {eob esc : List Bool} (ht : EngineTurn s)
    (hp : s.phase = .segDecode) (hs : s.stage = .acItem) (hc : CursorOk s.mem s.cursor)
    (ha : s.cfg.acCode = .table rows eob esc) (hb : StreamBegins s.mem s.cursor eob) :
    step s = .next (acEobItem eob.length (popHost s)) := by
  have hreach : eob.length ≤ codeReach s := acCode_le_codeReach ha (by simp)
  have hwin := codeReach_le s
  obtain ⟨rest, hrest⟩ := lookahead_append hc hb (by omega)
  have hd := decodeAc_eob (rows := rows) (esc := esc) (isPrefixOf_append_self eob rest)
  rw [← ha, ← hrest] at hd
  exact step_acTable ht hp hs hd

/-! The obligations. -/

/-- Settles O9: the effect is AdvanceStore's (`acEscItem_effect`); under another table the decoder reads the escape's own
fields; a token's bits are a row of R110, none of whose codes begins another, or an escape. -/
theorem escapeItems : Obligations.EscapeItems := by
  unfold Obligations.EscapeItems
  refine ⟨fun run level s => ⟨_, exec_esc run level s, acEscItem_effect (by decide) run level s⟩, ?table, ?tokens, ?range⟩
  case table =>
    intro s rows eob esc ht hp hs hc ha hl run level hb
    exact ⟨_, _, consumePieces_pieces (legal_table_codes_pos (ha ▸ hl)).2, step_tableEscape ht hp hs hc ha hl hb,
      acEscItem_effect_pieces esc.length run level (popHost s)⟩
  case tokens =>
    intro c run level tok b more hc htok hbits
    simp only [decode, hc]
    simp only [List.mem_cons, List.not_mem_nil, or_false] at htok
    rcases htok with rfl | rfl | rfl
    · simp only [Token.stream?, hc] at hbits
      exact acToken_effect hbits more
    · simp only [Token.stream?, hc] at hbits
      exact escToken_effect hbits more
    · rcases acStar_cases hbits with hac | ⟨_, hesc⟩
      · exact acToken_effect (hc ▸ hac) more
      · exact escToken_effect (hc ▸ hesc) more
  case range =>
    exact fun c run level => ⟨escToken_isSome c.acCode run level, fun hc => acStar_isSome hc run level⟩

/-- Settles O10: both forms are `acEobItem`, with the code of R108 or the table's own. -/
theorem endOfBlockItem : Obligations.EndOfBlockItem := by
  unfold Obligations.EndOfBlockItem
  refine ⟨fun s => ⟨_, exec_eob s, ?row⟩, ?table⟩
  case row =>
    have heff := acEobItem_effect 2 s
    rwa [consumePieces_le (by decide)] at heff
  case table =>
    intro s rows eob esc ht hp hs hc ha hl hb
    exact ⟨_, _, consumePieces_pieces (legal_table_codes_pos (ha ▸ hl)).1, step_tableEob ht hp hs hc ha hb,
      acEobItem_effect eob.length (popHost s)⟩

/-- Settles O17: the bound check of execRawChunk fails. -/
theorem rawChunkWithoutRoomFaults : Obligations.RawChunkWithoutRoomFaults := by
  unfold Obligations.RawChunkWithoutRoomFaults
  intro s hshort
  have hnot : ¬ s.cur + 163840 ≤ s.inLen.toNat := by omega
  exact if_neg hnot

end Sys2Proof.Machine
end

section
/-! PROOFS. Whose turn it is, and the steps on it: the decoded instruction (O6 StepRunsDecodedInstruction), the CTRL
writes (O20 ControlSetCommand, O21 ControlWritesIgnoredWhileBusy) and the other register accesses (O46
HostRegisterReads, O47 HostRegisterWrites, O48 NonWordAccessRefused), with the reset values (O52 ResetValues). -/

namespace Sys2Proof.Machine

/-! Whose turn it is. -/

/-- With no host action pending no turn is taken off. -/
theorem popHost_nil {s : State} (hh : s.host = []) : popHost s = s := by
  cases s
  simp_all [popHost]

/-- A host action that is no Accept is taken off the list. -/
theorem popHost_cons {s : State} {a : HostAction} {rest : List HostAction} (hh : s.host = a :: rest)
    (ha : a ≠ .accept) : popHost s = { s with host := rest } := by
  cases a <;> simp_all [popHost]

/-- A host action has the turn, save an Accept, which may wait, and the engine's own entry. -/
theorem turn_cons {s : State} {a : HostAction} {rest : List HostAction} (hh : s.host = a :: rest)
    (ha : a ≠ .accept) (he : a ≠ .engine) : turn s = .host a := by
  cases a <;> simp_all [turn]

/-- A CTRL write runs the instruction that it decodes to (R119). -/
theorem step_ctrlWrite {s : State} {v : Word} {rest : List HostAction} (hh : s.host = .regWrite 0 4 v :: rest) :
    step s = exec (decodeHost v) { s with host := rest } := by
  have hfetch : fetch s = .instr (decodeHost v) := by
    simp [fetch, turn_cons hh (by simp) (by simp)]
  rw [step, hfetch, ← popHost_cons hh (by simp)]

/-- A register write away from CTRL is taken when it is a whole, aligned word (R68, R310). -/
theorem step_regWrite {s : State} {off width : Nat} {v : Word} {rest : List HostAction}
    (hh : s.host = .regWrite off width v :: rest) (hn : ¬ (off = 0 ∧ width = 4)) :
    step s = if wordAccess off width then .next (writeRegister off v { s with host := rest })
      else .refused .registerAccess := by
  have hfetch : fetch s = .host (.regWrite off width v) := by
    unfold fetch
    rw [turn_cons hh (by simp) (by simp)]
    split <;> simp_all
  rw [step, hfetch, ← popHost_cons hh (by simp)]
  rfl

/-- A register read is taken when it is a whole, aligned word (R68, R310). -/
theorem step_regRead {s : State} {off width : Nat} {rest : List HostAction}
    (hh : s.host = .regRead off width :: rest) :
    step s = if wordAccess off width then .next { s with host := rest, readData := readRegister s off }
      else .refused .registerAccess := by
  have hfetch : fetch s = .host (.regRead off width) := by
    simp [fetch, turn_cons hh (by simp) (by simp)]
  rw [step, hfetch, popHost_cons hh (by simp)]
  rfl

/-- On the engine's turn a step runs the instruction that the engine fetches. -/
theorem step_fetchEngine {s : State} {i : Instr} (ht : EngineTurn s) (hf : fetchEngine s = .instr i) :
    step s = exec i (popHost s) := by
  rw [step, fetch_engineTurn ht, hf]

/-- In TILED the engine classifies the next chunk, save in the two steps after an Accept (R284, R292). -/
theorem fetchEngine_tiled {s : State} (hp : s.phase = .tiled) (ha : s.stage ≠ .advance) (ht : s.stage ≠ .terminal) :
    fetchEngine s = fetchTiled s := by
  unfold fetchEngine
  rw [hp]
  cases hs : s.stage <;> simp_all

/-- Settles O6: the fetch of each phase and stage is the decoder's answer at the decode position. -/
theorem stepRunsDecodedInstruction : Obligations.StepRunsDecodedInstruction := by
  unfold Obligations.StepRunsDecodedInstruction
  intro s i
  refine ⟨?host, ?dcItem, ?acItem, ?header, ?tiled, ?probe, popHost_nil⟩
  case host =>
    rintro v rest hh rfl
    exact step_ctrlWrite hh
  case dcItem =>
    intro ht hp hs hd
    exact step_fetchEngine ht (by simp [fetchEngine, hp, fetchDecode, hs, hd, Decoded.fetched])
  case acItem =>
    intro ht hp hs hd
    exact step_fetchEngine ht (by simp [fetchEngine, hp, fetchDecode, hs, hd, Decoded.fetched])
  case header =>
    intro ht hp hcur hd
    exact step_fetchEngine ht (by simp [fetchEngine, hp, fetchSegHdr, Nat.not_le.2 hcur, hd, Decoded.fetched])
  case tiled =>
    intro ht hp hna hnt hcur hd
    refine step_fetchEngine ht ?_
    rw [fetchEngine_tiled hp hna hnt]
    simp [fetchTiled, Nat.not_le.2 hcur, hd, Decoded.fetched]
  case probe =>
    intro ht hp hd
    exact step_fetchEngine ht (by simp [fetchEngine, hp, fetchProbe, hd, Decoded.fetched])

/-! The two kinds of write to CTRL (R32, R119). -/

theorem exec_start (mode reorg srcErr : Bool) (s : State) :
    exec (.start mode reorg srcErr) s = .next (if s.status.busy then s else startRun mode reorg srcErr s) := rfl

theorem exec_ctrlSet (mode reorg srcErr : Bool) (s : State) :
    exec (.ctrlSet mode reorg srcErr) s = .next (if s.status.busy then s else setControl mode reorg srcErr s) := rfl

/-- Settles O20: CTRL_SET is setControl while no run is in progress. -/
theorem controlSetCommand : Obligations.ControlSetCommand := by
  unfold Obligations.ControlSetCommand
  intro mode reorg srcErr s hb
  rw [exec_ctrlSet, hb]
  rfl

/-- Settles O21: both meanings test BUSY first, and decodeHost reads bits 0 to 3 alone. -/
theorem controlWritesIgnoredWhileBusy : Obligations.ControlWritesIgnoredWhileBusy := by
  unfold Obligations.ControlWritesIgnoredWhileBusy
  refine ⟨fun mode reorg srcErr s hb => ?busy, fun v w hvw => ⟨?same, ?start, ?set⟩⟩
  case busy => exact ⟨by rw [exec_start, if_pos hb], by rw [exec_ctrlSet, if_pos hb]⟩
  case same => simp only [decodeHost, hvw 0 (by decide), hvw 1 (by decide), hvw 2 (by decide), hvw 3 (by decide)]
  case start => exact fun h0 => if_pos h0
  case set => exact fun h0 => if_neg (Bool.eq_false_iff.1 h0)

/-! The other registers (R31 to R35, R68). -/

/-- CTRL from its lowest bit up (R32). -/
theorem ctrl_word_eq (c : Ctrl) :
    c.word = BitVec.ofNat 32 (Nat.bit false (Nat.bit c.mode (Nat.bit c.reorg (Nat.bit c.srcErr 0)))) := by
  rw [Ctrl.word]
  congr 1
  simp only [Nat.bit_val, Bool.toNat_false]
  omega

/-- The bits of CTRL that the host reads (R32). -/
theorem ctrl_word_getLsbD (c : Ctrl) (j : Nat) : c.word.getLsbD j =
    ((decide (j = 1) && c.mode) || (decide (j = 2) && c.reorg) || (decide (j = 3) && c.srcErr)) := by
  rw [ctrl_word_eq, BitVec.getLsbD_ofNat]
  rcases j with _ | _ | _ | _ | j <;> simp only [Nat.testBit_bit_zero, Nat.testBit_bit_succ] <;> simp

/-- STATUS from its lowest bit up, the reserved bits 7:5 as zeros (R33). -/
theorem status_word_eq (s : Status) : s.word = BitVec.ofNat 32
    (Nat.bit s.busy (Nat.bit s.done (Nat.bit s.success (Nat.bit s.fatal (Nat.bit s.hold
      (Nat.bit false (Nat.bit false (Nat.bit false s.endReason.code)))))))) := by
  rw [Status.word]
  congr 1
  simp only [Nat.bit_val, Bool.toNat_false]
  omega

/-- The code of an end reason fits the field of STATUS (R33). -/
theorem endReason_code_lt (r : EndReason) : r.code < 8 := by cases r <;> decide

/-- The bits of STATUS that the host reads (R33). -/
theorem status_word_getLsbD (s : Status) (j : Nat) : s.word.getLsbD j =
    ((decide (j = 0) && s.busy) || (decide (j = 1) && s.done) || (decide (j = 2) && s.success)
      || (decide (j = 3) && s.fatal) || (decide (j = 4) && s.hold)
      || (decide (8 ≤ j) && s.endReason.code.testBit (j - 8))) := by
  rw [status_word_eq, BitVec.getLsbD_ofNat]
  rcases Nat.lt_or_ge j 8 with hlow | hhigh
  · interval_cases j <;> simp only [Nat.testBit_bit_zero, Nat.testBit_bit_succ] <;> simp
  · obtain ⟨k, rfl⟩ := Nat.exists_eq_add_of_le' hhigh
    have hfits : s.endReason.code.testBit k = true → k + 8 < 32 := by
      intro hk
      have hlt : 2 ^ k < 2 ^ 3 := lt_of_le_of_lt (Nat.ge_two_pow_of_testBit hk) (endReason_code_lt _)
      have := (Nat.pow_lt_pow_iff_right (by decide)).1 hlt
      omega
    simp only [Nat.testBit_bit_succ]
    simpa using hfits

/-- A reserved offset reads 0 (R31). -/
theorem readRegister_reserved {s : State} {off : Nat} (h : 0x28 ≤ off) : readRegister s off = 0 := by
  unfold readRegister
  repeat rw [if_neg (by omega)]

/-- Settles O46: the read answers readRegister, whose two composed words are read bit by bit. -/
theorem hostRegisterReads : Obligations.HostRegisterReads := by
  unfold Obligations.HostRegisterReads
  refine ⟨⟨rfl, rfl, rfl, rfl, rfl, rfl, rfl⟩, ?_⟩
  intro s off rest hh halign hmax
  have hword : wordAccess off 4 = true := decide_eq_true ⟨rfl, halign, hmax⟩
  refine ⟨readRegister s off, ?step, ?ctrl, ?status, ?_, ?_, ?_, ?_, ?_, ?_, ?_, ?_, ?reserved⟩
  case step => rw [step_regRead hh, if_pos hword]
  case ctrl => rintro rfl; exact ctrl_word_getLsbD s.ctrl
  case status => rintro rfl; exact status_word_getLsbD s.status
  case reserved =>
    intro hoff
    exact readRegister_reserved hoff
  all_goals rintro rfl; rfl

/-- Settles O47: the access is a whole, aligned word, and writeRegister touches IN_LEN alone. -/
theorem hostRegisterWrites : Obligations.HostRegisterWrites := by
  unfold Obligations.HostRegisterWrites
  intro s off v rest hh hne halign hmax
  have hword : wordAccess off 4 = true := decide_eq_true ⟨rfl, halign, hmax⟩
  rw [step_regWrite hh (by simp [hne])]
  exact if_pos hword

/-- Settles O48: wordAccess fails, for the write and for the read. -/
theorem nonWordAccessRefused : Obligations.NonWordAccessRefused := by
  unfold Obligations.NonWordAccessRefused
  intro s off width v rest hbad
  have hword : ¬ wordAccess off width = true := by simpa [wordAccess] using hbad
  refine ⟨fun hh => ?write, fun hh => ?read⟩
  case write =>
    rw [step_regWrite hh (by omega)]
    exact if_neg hword
  case read =>
    rw [step_regRead hh]
    exact if_neg hword

/-- Settles O52: each value is one of State.reset. -/
theorem resetValues : Obligations.ResetValues := by
  unfold Obligations.ResetValues
  decide

end Sys2Proof.Machine
end

section
/-! PROOFS. What every item of the bitstream does, said once for the six item moves: each invariant below uses it. -/

namespace Sys2Proof.Machine

/-! What every item of the bitstream does. -/

/-- What every item leaves, whatever its code (R162, R190 to R194): the cursor moves by Consumes, the counters do not
fall, and the block stays in its ranges. -/
structure ItemFrame (s t : State) : Prop where
  consumes : ∃ ws : List Nat, (∀ w ∈ ws, w ≤ 16) ∧ t.cursor = ws.foldl (fun c n => c.advance s.mem n) s.cursor
  oorCount : s.oorCount.toNat ≤ t.oorCount.toNat
  overrunCount : s.overrunCount.toNat ≤ t.overrunCount.toNat
  segcapCount : s.segcapCount.toNat ≤ t.segcapCount.toNat
  kRange : s.k ≤ 64 → t.k ≤ 64
  levelLength : s.level.length = 64 → t.level.length = 64
  inLoop : s.stage.inLoop = true → t.stage.inLoop = true
  frame : t = { s with
    cursor := t.cursor, oorCount := t.oorCount, overrunCount := t.overrunCount, segcapCount := t.segcapCount,
    entryCount := t.entryCount, k := t.k, level := t.level, poisoned := t.poisoned, qtag := t.qtag, pred := t.pred,
    stage := t.stage }

/-- Reports never lower OVERRUN_COUNT (R35). -/
theorem overrunsTo_ge {c : Cursor} : ∀ {ws : List Nat} {p : Nat} {a b : Word}, OverrunsTo c p ws a b → a.toNat ≤ b.toNat
  | [], _, _, _, h => h ▸ le_rfl
  | w :: ws, p, a, b, ⟨hpast, hwithin⟩ => by
    by_cases hp : TakesPastEnd c p w
    · exact le_trans (satInc_ge a) (overrunsTo_ge (hpast hp))
    · exact overrunsTo_ge (hwithin hp)

theorem Consumes.overrunCount_ge {s t : State} {ws : List Nat} (h : Consumes s t ws) :
    s.overrunCount.toNat ≤ t.overrunCount.toNat := by
  cases hr : s.cfg.overrunReports with
  | perConsume => exact overrunsTo_ge (h.reportEach hr)
  | perItem =>
    obtain ⟨hpast, hwithin⟩ := h.reportItem hr
    by_cases hp : TakesPastEnd s.cursor s.cursor.bitpos ws.sum
    · exact hpast hp ▸ satInc_ge _
    · exact hwithin hp ▸ le_rfl

theorem CountsEntry.segcapCount_ge {s t : State} (h : CountsEntry s t) :
    s.segcapCount.toNat ≤ t.segcapCount.toNat := by
  cases hc : s.cfg.segEntryCapacity with
  | none => exact h.unbounded hc ▸ le_rfl
  | some cap =>
    rcases Nat.lt_or_ge cap (s.entryCount + 1) with hlt | hle
    · exact h.past cap hc hlt ▸ satInc_ge _
    · exact h.within cap hc hle ▸ le_rfl

/-- A DC item fills a cleared block and goes on with the AC items (R190). -/
theorem DcEffect.itemFrame {s t : State} {ws : List Nat} {v : Int} {p : Pred} (h : DcEffect s t ws v p)
    (hw : ∀ w ∈ ws, w ≤ 16) : ItemFrame s t where
  consumes := ⟨ws, hw, h.consumes.cursor⟩
  oorCount := by rw [h.frame]
  overrunCount := h.consumes.overrunCount_ge
  segcapCount := h.counts.segcapCount_ge
  kRange := by simp [h.k]
  levelLength := by simp [h.level]
  inLoop := by simp [h.stage, Stage.inLoop]
  frame := by rw [h.frame]

/-- An AC item stores at a legal position or drops the level (R196, R197). -/
theorem AcEffect.itemFrame {s t : State} {ws : List Nat} {run : Nat} {v : Int} (h : AcEffect s t ws run v)
    (hw : ∀ w ∈ ws, w ≤ 16) : ItemFrame s t := by
  have hblock : s.oorCount.toNat ≤ t.oorCount.toNat ∧ t.k ≤ 64 ∧ t.level.length = s.level.length := by
    by_cases hpast : s.k = 64 ∨ 63 < s.k + run + 1
    · obtain ⟨hk, hlevel, hoor, _⟩ := h.dropped hpast
      exact ⟨hoor ▸ satInc_ge _, hk.le, by rw [hlevel]⟩
    · obtain ⟨hk, hlevel, hoor, _⟩ := h.stored (by omega) (by omega)
      exact ⟨hoor ▸ le_rfl, by omega, by rw [hlevel, List.length_set]⟩
  obtain ⟨hoor, hk, hlevel⟩ := hblock
  exact
    { consumes := ⟨ws, hw, h.consumes.cursor⟩
      oorCount := hoor
      overrunCount := h.consumes.overrunCount_ge
      segcapCount := h.counts.segcapCount_ge
      kRange := fun _ => hk
      levelLength := hlevel.trans
      inLoop := by rw [h.frame]; exact id
      frame := by rw [h.frame] }

@[simp] theorem dcFlatItem_itemFrame (v : Int) (s : State) : ItemFrame s (dcFlatItem v s) :=
  (dcFlatItem_effect v s).itemFrame (by simp)

@[simp] theorem dcPredItem_itemFrame (c : Channel) {len size : Nat} (b : Nat) (hl : len ≤ 16) (hz : size ≤ 16)
    (s : State) : ItemFrame s (dcPredItem c len size b s) :=
  (dcPredItem_effect c len size b s).itemFrame (by split <;> simp [hl, hz])

@[simp] theorem dcCodeItem_itemFrame (c : Channel) (delta : Int) (len : Nat) (s : State) :
    ItemFrame s (dcCodeItem c delta len s) :=
  (dcPredict_effect c delta (consumePieces len) s).itemFrame fun _ => consumePieces_width

/-- The pieces of a code and the fields of an item after it are no wider than a Consume can take (R142, R164). -/
theorem consumePieces_append_width {len : Nat} {fields : List Nat} (hf : ∀ w ∈ fields, w ≤ 16) :
    ∀ w ∈ consumePieces len ++ fields, w ≤ 16 := fun w hw =>
  (List.mem_append.1 hw).elim consumePieces_width (hf w)

@[simp] theorem acVlcItem_itemFrame (len run mag : Nat) (neg : Bool) (s : State) :
    ItemFrame s (acVlcItem len run mag neg s) :=
  (acVlcItem_effect_pieces len run mag neg s).itemFrame (consumePieces_append_width (by simp))

@[simp] theorem acEscItem_itemFrame (len : Nat) (run : BitVec 6) (level : BitVec 11) (s : State) :
    ItemFrame s (acEscItem len run level s) :=
  (acEscItem_effect_pieces len run level s).itemFrame (consumePieces_append_width (by simp))

@[simp] theorem acEobItem_itemFrame (len : Nat) (s : State) : ItemFrame s (acEobItem len s) := by
  obtain ⟨hconsumes, hcounts, hframe⟩ := acEobItem_effect len s
  exact
    { consumes := ⟨_, fun _ => consumePieces_width, hconsumes.cursor⟩
      oorCount := by rw [hframe]
      overrunCount := hconsumes.overrunCount_ge
      segcapCount := hcounts.segcapCount_ge
      kRange := by rw [hframe]; exact id
      levelLength := by rw [hframe]; exact id
      inLoop := by rw [hframe]; exact fun _ => rfl
      frame := by rw [hframe] }

/-! The fields that an item leaves alone (`raster` is the field frame). -/

namespace ItemFrame

variable {s t : State} (h : ItemFrame s t)
include h

theorem cfg : t.cfg = s.cfg := by rw [h.frame]
theorem ctrl : t.ctrl = s.ctrl := by rw [h.frame]
theorem status : t.status = s.status := by rw [h.frame]
theorem inLen : t.inLen = s.inLen := by rw [h.frame]
theorem outCount : t.outCount = s.outCount := by rw [h.frame]
theorem segCount : t.segCount = s.segCount := by rw [h.frame]
theorem phase : t.phase = s.phase := by rw [h.frame]
theorem cur : t.cur = s.cur := by rw [h.frame]
theorem blk : t.blk = s.blk := by rw [h.frame]
theorem mb : t.mb = s.mb := by rw [h.frame]
theorem bpix : t.bpix = s.bpix := by rw [h.frame]
theorem tile : t.tile = s.tile := by rw [h.frame]
theorem raster : t.frame = s.frame := by rw [h.frame]
theorem pending : t.pending = s.pending := by rw [h.frame]
theorem mem : t.mem = s.mem := by rw [h.frame]

end ItemFrame

end Sys2Proof.Machine
end

section
/-! PROOFS. What every step keeps, by a case split over the moves of Laws/Step.lean: STATUS, PHASE and PENDING (O55
StatusStaysConsistent), the bit cursor (O56 CursorStaysInStep), the buffers (O57 BuffersStayInRange), the parameters and
IN (O59 OnlyInWriteChangesInput) and the progress of a run (O60 RunProgressIsMonotone). -/

namespace Sys2Proof.Machine

/-! STATUS, PHASE and PENDING (R33, R36, R47). -/

/-- StatusOk looks at PHASE, STATUS and PENDING alone. -/
theorem StatusOk.of_same {s t : State} (hs : StatusOk s) (hp : t.phase = s.phase) (hst : t.status = s.status)
    (hn : t.pending = s.pending) : StatusOk t := by
  obtain ⟨h1, h2, h3, h4, h5, h6, h7⟩ := hs
  constructor <;> simp only [hp, hst, hn] <;> assumption

/-- While a run goes on STATUS is that of START, with HOLD as the port has it (R33, R282). -/
theorem StatusOk.status_of_busy {s : State} (hs : StatusOk s) (hb : s.status.busy = true) :
    s.status = { startedStatus with hold := s.pending.isSome } := by
  have hdone : s.status.done = false := by
    have hph : ¬ (s.phase = .idle ∨ s.phase = .ended) := by simp [hs.idleIffNotBusy, hb]
    simpa using mt hs.doneIffEnded.1 (fun he => hph (Or.inr he))
  have hreason : s.status.endReason = .none := by
    by_contra hne
    simp [hs.reasonIffDone.1 hne] at hdone
  have hfatal : s.status.fatal = false := by rw [hs.fatalIffReason, hreason]; rfl
  have hsuccess : s.status.success = false := by
    by_contra hne
    simp [(hs.successOnlyDone (by simpa using hne)).1] at hdone
  have hhold := hs.holdIffPending
  cases hstatus : s.status
  simp_all [startedStatus]

/-- A run in progress, with HOLD as the port has it, is consistent. -/
theorem statusOk_of_running {t : State} (hst : t.status = { startedStatus with hold := t.pending.isSome })
    (hi : t.phase ≠ .idle) (he : t.phase ≠ .ended) : StatusOk t := by
  constructor <;> simp [hst, startedStatus, hi, he, EndReason.isFatal]

/-- A run that ended with a reason, and with an empty port, is consistent (R301). -/
theorem statusOk_of_ended {t : State} {r : EndReason} {n : Word} (hst : t.status = endedStatus r n) (hr : r ≠ .none)
    (hp : t.phase = .ended) (hn : t.pending = none) : StatusOk t := by
  constructor <;> simp [hst, endedStatus, hp, hn, hr]

/-- On the engine's turn nothing is on the port (R310). -/
theorem StatusOk.engineTurn {s : State} (hs : StatusOk s) (ht : EngineTurn s) :
    s.status = startedStatus ∧ s.pending = none := by
  obtain ⟨_, hbusy, hhold⟩ := ht
  have hnone : s.pending = none := by simpa [hhold] using hs.holdIffPending
  exact ⟨by rw [hs.status_of_busy hbusy, hnone]; rfl, hnone⟩

/-- An engine step that neither emits nor ends the run keeps STATUS, PHASE and PENDING consistent. -/
theorem StatusOk.of_working {s t : State} (hs : StatusOk s) (ht : EngineTurn s) (hst : t.status = s.status)
    (hn : t.pending = s.pending) (hi : t.phase ≠ .idle) (he : t.phase ≠ .ended) : StatusOk t := by
  obtain ⟨hstatus, hpending⟩ := hs.engineTurn ht
  exact statusOk_of_running (by rw [hst, hn, hstatus, hpending]; rfl) hi he

/-- An engine step that emits keeps them consistent (R280). -/
theorem StatusOk.of_emitting {s t : State} (hs : StatusOk s) (ht : EngineTurn s)
    (hst : t.status = { s.status with hold := true }) (hn : t.pending.isSome = true) (hi : t.phase ≠ .idle)
    (he : t.phase ≠ .ended) : StatusOk t :=
  statusOk_of_running (by rw [hst, hn, (hs.engineTurn ht).1]) hi he

/-- An engine step that ends the run keeps them consistent: it finds the port empty (R301). -/
theorem StatusOk.of_ending {s t : State} {r : EndReason} {n : Word} (hs : StatusOk s) (ht : EngineTurn s)
    (hst : t.status = endedStatus r n) (hr : r ≠ .none) (hp : t.phase = .ended) (hn : t.pending = s.pending) :
    StatusOk t :=
  statusOk_of_ended hst hr hp (hn.trans (hs.engineTurn ht).2)

theorem statusOk_reset : StatusOk State.reset := by
  constructor <;> decide

/-- START_CHECK ends the run or opens a framer (R283). -/
theorem startCheck_statusOk {s : State} (hs : StatusOk s) (ht : EngineTurn s) :
    StatusOk (startCheck (popHost s)) := by
  rcases startCheck_cases (popHost s) with hend | hend | ⟨_, hgo⟩ | ⟨_, hgo⟩
  · exact hend ▸ hs.of_ending ht rfl (by simp) rfl (by simp)
  · exact hend ▸ hs.of_ending ht rfl (by simp) rfl (by simp)
  · exact hgo ▸ hs.of_working ht (by simp) (by simp) (by simp) (by simp)
  · exact hgo ▸ hs.of_working ht (by simp) (by simp) (by simp) (by simp)

/-- A recognised pattern emits its texture or does not, and the next segment begins (R298, R300). -/
theorem probe_statusOk {s : State} (hs : StatusOk s) (ht : EngineTurn s) :
    StatusOk (nextSegment (textureRecord (probeOffset (popHost s)) (popHost s))) := by
  rcases textureRecord_cases (probeOffset (popHost s)) (popHost s) with hrec | ⟨_, _, hrec⟩ | hrec <;> rw [hrec]
  · exact hs.of_working ht (by simp) (by simp) (by simp) (by simp)
  · exact hs.of_emitting ht (by simp) (by simp) (by simp) (by simp)
  · exact hs.of_working ht (by simp) (by simp) (by simp) (by simp)

theorem ItemFrame.statusOk {s t : State} (hs : StatusOk s) (h : ItemFrame (popHost s) t) : StatusOk t :=
  hs.of_same (by simp [h.phase]) (by simp [h.status]) (by simp [h.pending])

/-- Every move keeps STATUS, PHASE and PENDING consistent. -/
theorem Move.statusOk {s t : State} (h : Move s t) (hs : StatusOk s) : StatusOk t := by
  cases h with
  | stay | control | regWrite | regRead | inWrite => exact hs.of_same (by simp) (by simp) (by simp)
  | start => exact statusOk_of_running rfl (by simp) (by simp)
  | accept ha hh =>
    have hbusy := hs.holdOnlyBusy hh
    obtain ⟨hi, he⟩ := not_or.1 (mt hs.idleIffNotBusy.1 (by simp [hbusy]))
    exact statusOk_of_running (by simp [hs.status_of_busy hbusy]) (by simpa using hi) (by simpa using he)
  | reset => exact statusOk_reset.of_same (by simp) (by simp) (by simp)
  | startCheck ht hp => exact startCheck_statusOk hs ht
  | endOfInput ht hp | formatMismatch ht hp | terminal ht hp | dcMismatch ht hp hs' | acMismatch ht hp hs' =>
    exact hs.of_ending ht rfl (by simp) rfl (by simp)
  | texture ht hp | unknown ht hp | image ht hp hroom | emitFrame ht hp hs' =>
    exact hs.of_emitting ht (by simp) (by simp) (by simp [hp]) (by simp [hp])
  | header l y q v ht hp => exact hs.of_working ht (by simp) (by simp) (by simp) (by simp)
  | advance ht hp | segmentInit ht hp hs' | reconstruct ht hp hs' | mergePlace ht hp hs' | toProbe ht hp hs'
  | noTexture ht hp => exact hs.of_working ht (by simp) (by simp) (by simp [hp]) (by simp [hp])
  | probe ht hp => exact probe_statusOk hs ht
  | dcFlat | dcPred | dcTable | acRow | acEscape | acEnd => exact ItemFrame.statusOk hs (by simp [*])

/-- Settles O55: every next state is a move, and every move keeps StatusOk. -/
theorem statusStaysConsistent : Obligations.StatusStaysConsistent := by
  unfold Obligations.StatusStaysConsistent
  exact fun s t hs hstep => (step_move hstep).statusOk hs

/-! The bit cursor (R147, R150). -/

/-- The macroblock loop comes after the segment's initialisation (R294, R295). -/
theorem Stage.afterInit_of_inLoop {g : Stage} (h : g.inLoop = true) : g.afterInit = true := by
  revert h
  cases g <;> decide

theorem cursorLive_of_inLoop {s : State} (hp : s.phase = .segDecode) (hs : s.stage.inLoop = true) : CursorLive s :=
  Or.inl ⟨hp, Stage.afterInit_of_inLoop hs⟩

/-- The cursor is live in two phases alone. -/
theorem not_cursorLive {s : State} (hd : s.phase ≠ .segDecode) (hp : s.phase ≠ .segProbe) : ¬ CursorLive s := by
  simp [CursorLive, hd, hp]

/-- No segment is open after START_CHECK (R283). -/
theorem startCheck_not_cursorLive (s : State) : ¬ CursorLive (startCheck s) := by
  rcases startCheck_cases s with h | h | ⟨_, h⟩ | ⟨_, h⟩ <;> rw [h] <;> exact not_cursorLive (by simp) (by simp)

/-- A live cursor that a step leaves alone, with IN, stays in step. -/
theorem cursorOk_of_same {s t : State} (hc : CursorOk s.mem s.cursor) (hm : t.mem = s.mem)
    (hcur : t.cursor = s.cursor) : CursorOk t.mem t.cursor := by rwa [hm, hcur]

/-- A step that leaves PHASE, its stage, IN and the cursor alone keeps a live cursor in step. -/
theorem cursorOk_of_unmoved {s t : State} (hc : CursorLive s → CursorOk s.mem s.cursor)
    (h : t.phase = s.phase ∧ t.stage = s.stage ∧ t.mem = s.mem ∧ t.cursor = s.cursor) (hl : CursorLive t) :
    CursorOk t.mem t.cursor := by
  obtain ⟨hp, hs, hm, hcur⟩ := h
  exact cursorOk_of_same (hc (by simpa only [CursorLive, hp, hs] using hl)) hm hcur

/-- Every item keeps the cursor in step: no Consume of it is wider than 16 bits (R142, R164). -/
theorem ItemFrame.cursorOk {s t : State} (h : ItemFrame s t) (hc : CursorOk s.mem s.cursor) :
    CursorOk t.mem t.cursor := by
  obtain ⟨ws, hw, hcursor⟩ := h.consumes
  rw [h.mem, hcursor]
  exact foldl_advance_keeps (P := CursorOk s.mem) (fun _ _ hn hok => advance_ok hok hn) ws s.cursor hw hc

/-- Every move keeps a live cursor in step. -/
theorem Move.cursorOk {s t : State} (h : Move s t) (hs : StatusOk s) (hc : CursorLive s → CursorOk s.mem s.cursor)
    (hl : CursorLive t) : CursorOk t.mem t.cursor := by
  have item (hp : s.phase = .segDecode) (hst : s.stage.inLoop = true) (hi : ItemFrame (popHost s) t) :
      CursorOk t.mem t.cursor :=
    hi.cursorOk (by simpa using hc (cursorLive_of_inLoop hp hst))
  cases h with
  | stay | control | regWrite | regRead | accept => exact cursorOk_of_unmoved hc (by simp) hl
  | inWrite a b ht hb ha =>
    have hoff : ¬ CursorLive s := by
      rcases hs.idleIffNotBusy.2 hb with hp | hp <;> exact not_cursorLive (by simp [hp]) (by simp [hp])
    exact absurd (by simpa [CursorLive] using hl) hoff
  | reset ht => exact absurd hl (not_cursorLive (show Phase.idle ≠ _ by simp) (show Phase.idle ≠ _ by simp))
  | startCheck => exact absurd hl (startCheck_not_cursorLive _)
  | start | endOfInput | formatMismatch | terminal | dcMismatch | acMismatch | probe | noTexture =>
    exact absurd hl (not_cursorLive (by simp) (by simp))
  | header => exact absurd hl (by simp [CursorLive, Stage.afterInit])
  | texture ht hp | unknown ht hp | image ht hp hroom | advance ht hp =>
    exact absurd hl (not_cursorLive (by simp [hp]) (by simp [hp]))
  | segmentInit ht hp hs' => exact init_ok _ _ _
  | reconstruct ht hp hs' | mergePlace ht hp hs' =>
    exact cursorOk_of_same (hc (cursorLive_of_inLoop hp (by rw [hs']; rfl))) (by simp) (by simp)
  | emitFrame ht hp hs' | toProbe ht hp hs' =>
    exact cursorOk_of_same (hc (Or.inl ⟨hp, by rw [hs']; rfl⟩)) (by simp) (by simp)
  | dcFlat | dcPred | dcTable | acRow | acEscape | acEnd =>
    exact item (by assumption) (by simp [*, Stage.inLoop]) (by simp [*])

/-- Settles O56: every next state is a move; CursorInit makes the invariant, the Consumes of the items keep it, IN
changes only while no cursor is live. -/
theorem cursorStaysInStep : Obligations.CursorStaysInStep := by
  unfold Obligations.CursorStaysInStep
  exact fun s t hs hc hstep => (step_move hstep).cursorOk hs hc

/-! Indices and buffers (R41, R42, R44, R45). -/

theorem placeTile_length (c : Config) (m : Nat) (tile frame : List Half) :
    (placeTile c m tile frame).length = frame.length := by simp [placeTile]

theorem mergeTile_length (c : Config) (b : BlockPixels) : (mergeTile c b).length = 256 := by simp [mergeTile]

theorem rawImage_length (m : Memory) (base : Nat) (reorg : Bool) : (rawImage m base reorg).length = 81920 := by
  simp [rawImage]

/-- The indices, the block, the samples and the tile lie in their ranges, whatever the phase. -/
structure BlockOk (s : State) : Prop where
  kRange : s.k ≤ 64
  blkRange : s.blk ≤ 5
  levelLength : s.level.length = 64
  samples : ∀ r : Role, samplesOk r.channel (s.bpix.get r)
  tileLength : s.tile.length = 256

/-- FRAME has the run's raster, and MB is in its loop, as the phase asks. -/
structure RasterOk (s : State) : Prop where
  mbRange : s.phase = .segDecode → s.stage.inLoop = true → s.mb < s.cfg.mbCount
  frameSegmented : s.phase = .segHdr ∨ s.phase = .segDecode ∨ s.phase = .segProbe →
    s.frame.length = s.cfg.frameW * s.cfg.frameH
  frameTiled : s.phase = .tiled → s.frame.length = 81920

theorem buffersOk_iff {s : State} : BuffersOk s ↔ BlockOk s ∧ RasterOk s :=
  ⟨fun ⟨hk, hb, hm, hl, hx, ht, hs, hf⟩ => ⟨⟨hk, hb, hl, hx, ht⟩, ⟨hm, hs, hf⟩⟩,
    fun ⟨⟨hk, hb, hl, hx, ht⟩, ⟨hm, hs, hf⟩⟩ => ⟨hk, hb, hm, hl, hx, ht, hs, hf⟩⟩

theorem BlockOk.of_same {s t : State} (hs : BlockOk s)
    (h : t.k = s.k ∧ t.blk = s.blk ∧ t.level = s.level ∧ t.bpix = s.bpix ∧ t.tile = s.tile) : BlockOk t := by
  obtain ⟨hk, hb, hl, hx, ht⟩ := h
  obtain ⟨hkr, hbr, hll, hsa, htl⟩ := hs
  exact ⟨hk ▸ hkr, hb ▸ hbr, hl ▸ hll, hx ▸ hsa, ht ▸ htl⟩

theorem blockOk_reset : BlockOk State.reset where
  kRange := by decide
  blkRange := by decide
  levelLength := List.length_replicate
  samples := by
    intro r
    have hzero : ∀ ch : Channel, samplesOk ch (List.replicate 64 0) := fun ch => by cases ch <;> simp [samplesOk]
    cases r <;> exact hzero _
  tileLength := List.length_replicate

/-- Reconstruct writes samples in the range of the block's channel, drawn or computed (R226, R227, R234). -/
theorem reconstructBlock_samples {s : State} (hs : ∀ r : Role, samplesOk r.channel (s.bpix.get r)) (r : Role) :
    samplesOk r.channel ((reconstructBlock s).bpix.get r) := by
  rw [reconstructBlock_bpix]
  by_cases hr : r = s.role
  · subst hr
    rw [bpix_get_set]
    split
    · exact drawBlock_samplesOk _ _
    · exact blockSamples_samplesOk _ _ _ _
  · rw [bpix_get_set_ne _ _ _ _ hr]
    exact hs r

theorem reconstructStep_blockOk {s : State} (hs : BlockOk s) : BlockOk (reconstructStep s) where
  kRange := hs.kRange
  blkRange := by
    have := hs.blkRange
    rw [reconstructStep_blk]
    split <;> omega
  levelLength := hs.levelLength
  samples := reconstructBlock_samples hs.samples
  tileLength := hs.tileLength

theorem mergePlaceStep_blockOk {s : State} (hs : BlockOk s) : BlockOk (mergePlaceStep s) where
  kRange := hs.kRange
  blkRange := by
    have := hs.blkRange
    rw [mergePlaceStep_blk]
    split <;> omega
  levelLength := hs.levelLength
  samples := hs.samples
  tileLength := mergeTile_length _ _

/-- A block's start clears the block (R190). -/
theorem blockStart_blockOk {s : State} (hs : BlockOk s) : BlockOk (blockStart s) :=
  { hs with kRange := by simp, levelLength := by simp }

theorem ItemFrame.blockOk {s t : State} (h : ItemFrame s t) (hs : BlockOk s) : BlockOk t where
  kRange := h.kRange hs.kRange
  blkRange := h.blk ▸ hs.blkRange
  levelLength := h.levelLength hs.levelLength
  samples := h.bpix ▸ hs.samples
  tileLength := h.tile ▸ hs.tileLength

/-- Every move keeps the ranges that hold in every phase. -/
theorem Move.blockOk {s t : State} (h : Move s t) (hs : BlockOk s) : BlockOk t := by
  have hpop : BlockOk (popHost s) := hs.of_same (by simp)
  cases h with
  | stay => exact hpop
  | start | control | regWrite | regRead | accept | inWrite => exact hs.of_same (by simp)
  | reset ht => exact blockOk_reset.of_same (by simp)
  | startCheck | endOfInput | formatMismatch | terminal | acMismatch | header | texture | image | unknown | advance
  | emitFrame | toProbe | probe | noTexture => exact hs.of_same (by simp)
  | segmentInit ht hp hst => exact { hpop with blkRange := by simp }
  | dcMismatch ht hp hst => exact (blockStart_blockOk hpop).of_same (by simp)
  | reconstruct ht hp hst => exact reconstructStep_blockOk hpop
  | mergePlace ht hp hst => exact mergePlaceStep_blockOk hpop
  | dcFlat | dcPred | dcTable | acRow | acEscape | acEnd => exact ItemFrame.blockOk (by simp [*]) hpop

theorem RasterOk.of_same {s t : State} (hs : RasterOk s)
    (h : t.phase = s.phase ∧ t.stage = s.stage ∧ t.mb = s.mb ∧ t.cfg = s.cfg ∧ t.frame = s.frame) : RasterOk t := by
  obtain ⟨hp, hst, hm, hc, hf⟩ := h
  obtain ⟨hmb, hseg, htiled⟩ := hs
  constructor <;> simp only [hp, hst, hm, hc, hf] <;> assumption

/-- Outside the framers' phases nothing is asked of MB and FRAME. -/
theorem rasterOk_of_noFramer {t : State} (hp : t.phase = .idle ∨ t.phase = .startCheck ∨ t.phase = .ended) :
    RasterOk t := by
  rcases hp with hp | hp | hp <;> constructor <;> simp [hp]

theorem rasterOk_of_tiled {t : State} (hp : t.phase = .tiled) (hf : t.frame.length = 81920) : RasterOk t := by
  constructor <;> simp [hp, hf]

theorem rasterOk_of_segmented {t : State} (hp : t.phase ≠ .tiled) (hf : t.frame.length = t.cfg.frameW * t.cfg.frameH)
    (hm : t.phase = .segDecode → t.stage.inLoop = true → t.mb < t.cfg.mbCount) : RasterOk t :=
  ⟨hm, fun _ => hf, fun h => absurd h hp⟩

/-- START_CHECK sizes FRAME for the framer it opens (R283). -/
theorem startCheck_rasterOk (s : State) : RasterOk (startCheck s) := by
  rcases startCheck_cases s with h | h | ⟨_, h⟩ | ⟨_, h⟩ <;> rw [h]
  · exact rasterOk_of_noFramer (by simp)
  · exact rasterOk_of_noFramer (by simp)
  · exact rasterOk_of_segmented (by simp) List.length_replicate (by simp)
  · exact rasterOk_of_tiled rfl List.length_replicate

/-- Every move keeps MB and FRAME as the phase asks. -/
theorem Move.rasterOk {s t : State} (h : Move s t) (hs : RasterOk s) : RasterOk t := by
  obtain ⟨hmb, hseg, htiled⟩ := id hs
  have item (hp : s.phase = .segDecode) (hst : s.stage.inLoop = true) (hi : ItemFrame (popHost s) t) : RasterOk t :=
    rasterOk_of_segmented (by simp [hi.phase, hp]) (by simp [hi.raster, hi.cfg, hseg (.inr (.inl hp))])
      (fun _ _ => by simpa [hi.mb, hi.cfg] using hmb hp hst)
  cases h with
  | stay | control | regWrite | regRead | accept | inWrite => exact hs.of_same (by simp)
  | start => exact rasterOk_of_noFramer (by simp)
  | reset => exact rasterOk_of_noFramer (.inl rfl)
  | startCheck => exact startCheck_rasterOk _
  | endOfInput | formatMismatch | terminal | dcMismatch | acMismatch => exact rasterOk_of_noFramer (by simp)
  | texture ht hp | unknown ht hp | advance ht hp => exact rasterOk_of_tiled (by simp [hp]) (by simp [htiled hp])
  | image ht hp hn => exact rasterOk_of_tiled (by simp [hp]) (by rw [handOverImage_frame, rawImage_length])
  | header l y q v ht hp =>
    exact rasterOk_of_segmented (by simp) (by simp [hseg (.inl hp)]) (by simp [Stage.inLoop])
  | segmentInit ht hp hst =>
    refine rasterOk_of_segmented (by simp [hp]) (by simp [hseg (.inr (.inl hp))]) fun _ => ?_
    by_cases hzero : s.cfg.mbCount = 0
    · simp [hzero, Stage.inLoop]
    · simpa using fun _ => Nat.pos_of_ne_zero hzero
  | reconstruct ht hp hst =>
    exact rasterOk_of_segmented (by simp [hp]) (by simp [hseg (.inr (.inl hp))])
      fun _ _ => by simpa using hmb hp (by rw [hst]; rfl)
  | mergePlace ht hp hst =>
    have hcur := hmb hp (by rw [hst]; rfl)
    refine rasterOk_of_segmented (by simp [hp]) (by simp [placeTile_length, hseg (.inr (.inl hp))]) fun _ _ => ?_
    simp only [mergePlaceStep_mb, mergePlaceStep_cfg, popHost_mb, popHost_cfg]
    split <;> assumption
  | emitFrame ht hp hst | toProbe ht hp hst =>
    exact rasterOk_of_segmented (by simp [hp]) (by simp [hseg (.inr (.inl hp))]) (by simp [Stage.inLoop])
  | probe ht hp | noTexture ht hp => exact rasterOk_of_segmented (by simp) (by simp [hseg (.inr (.inr hp))]) (by simp)
  | dcFlat | dcPred | dcTable | acRow | acEscape | acEnd =>
    exact item (by assumption) (by simp [*, Stage.inLoop]) (by simp [*])

/-- Settles O57: the ranges that hold in every phase, and those that the phase asks for, each by a case split over the
moves. -/
theorem buffersStayInRange : Obligations.BuffersStayInRange := by
  unfold Obligations.BuffersStayInRange
  intro s t hs hstep
  obtain ⟨hblock, hraster⟩ := buffersOk_iff.1 hs
  exact buffersOk_iff.2 ⟨(step_move hstep).blockOk hblock, (step_move hstep).rasterOk hraster⟩

/-! The parameters and IN (R48, R71, R78). -/

/-- No operation of the machine touches the parameters. -/
theorem Move.cfg {s t : State} (h : Move s t) : t.cfg = s.cfg := by
  cases h <;> simp

/-- IN is as before, or the turn is an InWrite while no run is in progress. -/
theorem Move.mem {s t : State} (h : Move s t) :
    t.mem = s.mem ∨ ((∃ a b, turn s = .host (.inWrite a b)) ∧ s.status.busy = false) := by
  cases h with
  | inWrite a b ht hb ha => exact .inr ⟨⟨a, b, ht⟩, hb⟩
  | _ => exact .inl (by simp)

/-- Settles O59. Of the moves only the InWrite writes IN, and it needs BUSY = 0. -/
theorem onlyInWriteChangesInput : Obligations.OnlyInWriteChangesInput := by
  unfold Obligations.OnlyInWriteChangesInput
  intro s t hstep
  have hmove := step_move hstep
  refine ⟨hmove.cfg, fun hturn => ?_, fun hbusy => ?_⟩
  · rcases hmove.mem with hsame | ⟨⟨a, b, ht⟩, _⟩
    · exact hsame
    · exact absurd ht (hturn a b)
  · rcases hmove.mem with hsame | ⟨_, hidle⟩
    · exact hsame
    · simp [hbusy] at hidle

/-! The progress of a run (R32, R34, R46, R334, R383). -/

/-- No counter falls, CUR does not move back, and CTRL and IN_LEN stay. -/
structure Progress (s t : State) : Prop where
  outCount : s.outCount.toNat ≤ t.outCount.toNat
  segCount : s.segCount.toNat ≤ t.segCount.toNat
  oorCount : s.oorCount.toNat ≤ t.oorCount.toNat
  overrunCount : s.overrunCount.toNat ≤ t.overrunCount.toNat
  segcapCount : s.segcapCount.toNat ≤ t.segcapCount.toNat
  cur : s.cur ≤ t.cur
  ctrl : t.ctrl = s.ctrl
  inLen : t.inLen = s.inLen

theorem ItemFrame.progress {s t : State} (h : ItemFrame (popHost s) t) : Progress s t where
  outCount := by simp [h.outCount]
  segCount := by simp [h.segCount]
  oorCount := by simpa using h.oorCount
  overrunCount := by simpa using h.overrunCount
  segcapCount := by simpa using h.segcapCount
  cur := by simp [h.cur]
  ctrl := by simp [h.ctrl]
  inLen := by simp [h.inLen]

/-- While a run goes on every move but the reset input is Progress. -/
theorem Move.progress {s t : State} (h : Move s t) (hb : s.status.busy = true) (hr : turn s ≠ .host .reset) :
    Progress s t := by
  cases h with
  | start m r e hidle | control m r e hidle => simp [hb] at hidle
  | inWrite a b ht hidle => simp [hb] at hidle
  | reset ht => exact absurd ht hr
  | regWrite off v => constructor <;> simp [hb]
  | stay | regRead | accept | startCheck | endOfInput | formatMismatch | terminal | dcMismatch | acMismatch
  | segmentInit | reconstruct | mergePlace | toProbe | advance | noTexture => constructor <;> simp
  | header | texture | image | unknown | emitFrame => constructor <;> simp [satInc_ge]
  | probe ht hp =>
    rcases textureRecord_cases (probeOffset (popHost s)) (popHost s) with hrec | ⟨_, _, hrec⟩ | hrec <;> rw [hrec] <;>
      constructor <;> simp [satInc_ge]
  | dcFlat | dcPred | dcTable | acRow | acEscape | acEnd => exact ItemFrame.progress (by simp [*])

/-- Settles O60: every move of a run but the reset input is Progress. -/
theorem runProgressIsMonotone : Obligations.RunProgressIsMonotone := by
  unfold Obligations.RunProgressIsMonotone
  intro s t hbusy hreset hstep
  obtain ⟨hout, hseg, hoor, hover, hcap, hcur, hctrl, hlen⟩ := (step_move hstep).progress hbusy hreset
  exact ⟨hout, hseg, hoor, hover, hcap, hcur, hctrl, hlen⟩

end Sys2Proof.Machine
end

section
/-! PROOFS. The IN space: the canonical form at every step (O54 MemoryStaysCanonical), the host's write of one byte (O50
InWriteStoresOneByte) and the reads of one, two and four bytes (O43 LittleEndianReads). -/

namespace Sys2Proof.Machine

/-! The canonical form (R70, R78). -/

/-- Of the moves only the InWrite writes IN, by a write that keeps the canonical form. -/
theorem Move.mem_wf {s t : State} (h : Move s t) (hwf : s.mem.wf = true) : t.mem.wf = true := by
  cases h with
  | inWrite a b ht hb ha => exact wf_write a b hwf
  | _ => simpa using hwf

/-- Settles O54: every next state is a move. -/
theorem memoryStaysCanonical : Obligations.MemoryStaysCanonical := by
  unfold Obligations.MemoryStaysCanonical
  exact fun s t hwf hstep => (step_move hstep).mem_wf hwf

/-! The host's writes (R310, R380). -/

/-- An InWrite is taken while no run is in progress, and below IN_MAX. -/
theorem step_inWrite {s : State} {a : Nat} {b : Byte} {rest : List HostAction} (hh : s.host = .inWrite a b :: rest) :
    step s = if s.status.busy then .refused .inputBusy
      else if a < s.cfg.inMax then .next { s with host := rest, mem := s.mem.write a b }
      else .fault .writeOutsideInput := by
  have hfetch : fetch s = .host (.inWrite a b) := by
    simp [fetch, turn_cons hh (by simp) (by simp)]
  rw [step, hfetch, popHost_cons hh (by simp)]
  rfl

/-- Settles O50: the three cases of step_inWrite, with the laws of Memory.write for the byte that is stored. -/
theorem inWriteStoresOneByte : Obligations.InWriteStoresOneByte := by
  unfold Obligations.InWriteStoresOneByte
  intro s a b rest hh
  rw [step_inWrite hh]
  refine ⟨fun hbusy => ?refused, fun hidle hout => ?outside, fun hidle hin => ?stored⟩
  case refused => rw [if_pos hbusy]
  case outside => rw [if_neg (by simp [hidle]), if_neg (Nat.not_lt.2 hout)]
  case stored =>
    refine ⟨s.mem.write a b, by rw [if_neg (by simp [hidle]), if_pos hin], fun hwf => ?_⟩
    exact ⟨wf_write a b hwf, read_write_same a b hwf, fun x hne => read_write_other a x b hwf hne⟩

/-! Little-endian reads (R12, R74). -/

theorem memRead_one (m : Memory) (a : Nat) : m.memRead a 1 = (m.read a).toNat := by
  simp [Memory.memRead, Memory.bytes, leNat]

/-- Settles O43: the byte sums of both widths, regrouped by half. -/
theorem littleEndianReads : Obligations.LittleEndianReads := by
  unfold Obligations.LittleEndianReads
  intro m a
  refine ⟨memRead_one m a, memRead_two m a, ?_⟩
  rw [memRead_four, memRead_two, memRead_two, show a + 2 + 1 = a + 3 from rfl]
  omega

end Sys2Proof.Machine
end

section
/-! PROOFS. The code tables of the bitstream: bits and fields read back, complete codes, what the decoder answers
under the tables of R105 and R110, and what the rows of these tables are. -/

namespace Sys2Proof

/-! Bits and fields read back (R9). -/

/-- Bits of a number above the lowest `n` are not among its low `n` bits. -/
theorem natBits_mod (n v : Nat) : natBits n (v % 2 ^ n) = natBits n v := by
  apply List.ext_getElem
  · simp
  · intro j hj _
    have hlow : n - 1 - j < n := by simp at hj; omega
    simp [natBits_getElem, Nat.testBit_mod_two_pow, hlow]

theorem bitsNat_cons (x : Bool) (b : List Bool) : bitsNat (x :: b) = 2 ^ b.length * x.toNat + bitsNat b := by
  rw [← List.singleton_append, bitsNat_append, Nat.mul_comm]
  simp [bitsNat]

theorem bitsNat_lt : ∀ b : List Bool, bitsNat b < 2 ^ b.length
  | [] => by simp [bitsNat]
  | x :: b => by
    have ih := bitsNat_lt b
    have hx := Bool.toNat_le x
    rw [bitsNat_cons, List.length_cons, Nat.pow_succ]
    have := Nat.mul_le_mul_left (2 ^ b.length) hx
    omega

/-- The bits of the number of some bits. -/
theorem natBits_bitsNat : ∀ b : List Bool, natBits b.length (bitsNat b) = b
  | [] => rfl
  | x :: b => by
    have htop : (bitsNat (x :: b)).testBit b.length = x := by
      rw [bitsNat_cons, Nat.testBit_two_pow_mul_add _ (bitsNat_lt b)]
      cases x <;> simp
    have hlow : bitsNat (x :: b) % 2 ^ b.length = bitsNat b := by
      rw [bitsNat_cons, Nat.mul_add_mod, Nat.mod_eq_of_lt (bitsNat_lt b)]
    rw [List.length_cons, natBits, htop, ← natBits_mod, hlow, natBits_bitsNat b]

/-- The bits of a field are the stream's own bits there. -/
theorem natBits_bitField {b : List Bool} {k n : Nat} (h : k + n ≤ b.length) :
    natBits n (bitField b k n) = (b.drop k).take n := by
  have hlen : ((b.drop k).take n).length = n := by simp; omega
  have hbits := natBits_bitsNat ((b.drop k).take n)
  rwa [hlen] at hbits

/-- The same for a field held in a word of its width. -/
theorem natBits_ofNat_bitField {b : List Bool} {k n : Nat} (h : k + n ≤ b.length) :
    natBits n (BitVec.ofNat n (bitField b k n)).toNat = (b.drop k).take n := by
  rw [BitVec.toNat_ofNat, natBits_mod, natBits_bitField h]

/-- A field behind `k` bits is the number it was written with. -/
theorem bitField_natBits {a : List Bool} {k : Nat} (ha : a.length = k) (n v : Nat) (more : List Bool) :
    bitField (a ++ natBits n v ++ more) k n = v % 2 ^ n := by
  have h := bitField_append a (natBits n v) more
  rwa [natBits_length, ha, bitsNat_natBits] at h

/-- A little-endian field behind `k` bytes is the word it was written with. -/
theorem byteField_natBytes {a : List Byte} {k : Nat} (ha : a.length = k) {w n : Nat} (hw : w = 8 * n) (v : BitVec w)
    (more : List Byte) : BitVec.ofNat w (byteField (a ++ natBytes n v.toNat ++ more) k n) = v := by
  have h := byteField_append a (natBytes n v.toNat) more
  rw [natBytes_length, ha, leNat_natBytes, show (256 : Nat) ^ n = 2 ^ w by rw [hw, Nat.pow_mul]] at h
  rw [h, Nat.mod_eq_of_lt v.isLt, BitVec.ofNat_toNat, BitVec.setWidth_eq]

theorem isPrefixOf_iff_take {u b : List Bool} : u.isPrefixOf b = true ↔ b.take u.length = u := by
  rw [List.isPrefixOf_iff_prefix, List.prefix_iff_eq_take, eq_comm]

/-- Bits that begin with a code are the code and the bits after it. -/
theorem eq_append_of_isPrefixOf {u b : List Bool} (h : u.isPrefixOf b = true) : b = u ++ b.drop u.length := by
  obtain ⟨rest, rfl⟩ := List.isPrefixOf_iff_prefix.1 h
  simp

/-! Complete codes: no word begins another, and every long enough string begins with a word. -/

/-- A check that every string of `n` bits begins with one of the codes, which splits the codes by their first bits. -/
def covers : Nat → List (List Bool) → Bool
  | 0, codes => codes.contains []
  | n + 1, codes => codes.contains []
      || (covers n (codes.filterMap (restAfter true)) && covers n (codes.filterMap (restAfter false)))

/-- A code behind its first bit begins the bits behind that bit. -/
theorem exists_prefix_cons {x : Bool} {codes : List (List Bool)} {b : List Bool}
    (h : ∃ c ∈ codes.filterMap (restAfter x), c.isPrefixOf b = true) : ∃ c ∈ codes, c.isPrefixOf (x :: b) = true := by
  obtain ⟨r, hr, hb⟩ := h
  obtain ⟨c, hc, hcr⟩ := List.mem_filterMap.1 hr
  rcases c with _ | ⟨y, c⟩
  · cases hcr
  · simp only [restAfter, Option.ite_none_right_eq_some, Option.some.injEq] at hcr
    obtain ⟨rfl, rfl⟩ := hcr
    exact ⟨_, hc, by simpa [List.isPrefixOf] using hb⟩

theorem exists_prefix_of_covers {n : Nat} {codes : List (List Bool)} {b : List Bool} (h : covers n codes = true)
    (hb : n ≤ b.length) : ∃ c ∈ codes, c.isPrefixOf b = true := by
  induction n generalizing codes b with
  | zero => exact ⟨[], by simpa [covers] using h, by simp⟩
  | succ n ih =>
    simp only [covers, Bool.or_eq_true, Bool.and_eq_true] at h
    rcases h with hnil | ⟨htrue, hfalse⟩
    · exact ⟨[], by simpa using hnil, by simp⟩
    · rcases b with _ | ⟨x, b⟩
      · simp at hb
      · have hlen : n ≤ b.length := by simpa using hb
        cases x with
        | true => exact exists_prefix_cons (ih htrue hlen)
        | false => exact exists_prefix_cons (ih hfalse hlen)

/-- Bits that begin with a word apart from a code begin with no word of the code. -/
theorem no_prefix_of_unused {unused : List Bool} {codes : List (List Bool)}
    (hfree : codesPrefixFree (unused :: codes) = true) {b : List Bool} (hb : unused.isPrefixOf b = true) :
    ∀ c ∈ codes, c.isPrefixOf b = false := fun c hc =>
  Bool.eq_false_iff.2 fun h => (List.pairwise_cons.1 (codesPrefixFree_pairwise hfree)).1 c hc b ⟨hb, h⟩

/-- Where one unused word makes a code complete, exactly the strings that begin with it match no code. -/
theorem exists_prefix_iff_of_complete {n : Nat} {unused : List Bool} {codes : List (List Bool)}
    (hfree : codesPrefixFree (unused :: codes) = true) (hcover : covers n (unused :: codes) = true) {b : List Bool}
    (hb : n ≤ b.length) : (∃ c ∈ codes, c.isPrefixOf b = true) ↔ b.take unused.length ≠ unused := by
  rw [Ne, ← isPrefixOf_iff_take]
  constructor
  · rintro ⟨c, hc, hcb⟩ hu
    simp [no_prefix_of_unused hfree hu c hc] at hcb
  · intro hu
    obtain ⟨c, hc, hcb⟩ := exists_prefix_of_covers hcover hb
    rcases List.mem_cons.1 hc with rfl | hc
    · exact absurd hcb hu
    · exact ⟨c, hc, hcb⟩

/-! The AC code of R108 to R110. -/

/-- EOB_CODE, ESC_CODE and the codes of AC_TABLE, without the sign bits. -/
def acCodes : List (List Bool) := eobCode :: escCode :: acTable.map AcEntry.codeBits

/-- The word that R111 leaves unused. -/
def acUnused : List Bool := List.replicate 12 false

theorem codeBits_mem_acCodes {e : AcEntry} (he : e ∈ acTable) : e.codeBits ∈ acCodes :=
  List.mem_cons_of_mem _ (List.mem_cons_of_mem _ (List.mem_map_of_mem he))

theorem acCodes_unused_prefixFree : codesPrefixFree (acUnused :: acCodes) = true :=
  codesPrefixFree_of_splitsApart (n := 17) (by decide)

theorem acCodes_unused_covers : covers 16 (acUnused :: acCodes) = true := by decide

/-- Where no string begins with two of the codes, none begins another. -/
theorem codesPrefixFree_of_pairwise {codes : List (List Bool)}
    (h : codes.Pairwise fun a b => ∀ l : List Bool, ¬ (a.isPrefixOf l = true ∧ b.isPrefixOf l = true)) :
    codesPrefixFree codes = true :=
  decide_eq_true (h.imp fun hab => ⟨fun hp => hab _ ⟨hp, by simp⟩, fun hp => hab _ ⟨by simp, hp⟩⟩)

theorem isPrefixOf_of_append {u v l : List Bool} (h : (u ++ v).isPrefixOf l = true) : u.isPrefixOf l = true :=
  List.isPrefixOf_iff_prefix.2 ((List.prefix_append u v).trans (List.isPrefixOf_iff_prefix.1 h))

/-- The two items of an AC_TABLE row, one for each sign (R107). -/
def AcEntry.items (e : AcEntry) : List (List Bool) := [e.codeBits ++ [false], e.codeBits ++ [true]]

/-- An item of a row begins with the row's code. -/
theorem isPrefixOf_of_mem_items {e : AcEntry} {x l : List Bool} (hx : x ∈ e.items) (h : x.isPrefixOf l = true) :
    e.codeBits.isPrefixOf l = true := by
  simp only [AcEntry.items, List.mem_cons, List.not_mem_nil, or_false] at hx
  rcases hx with rfl | rfl <;> exact isPrefixOf_of_append h

/-- With a sign bit after every row still no item begins another (R111). -/
theorem acItems_prefixFree : codesPrefixFree (eobCode :: escCode :: acTable.flatMap AcEntry.items) = true := by
  obtain ⟨heob, hp⟩ := List.pairwise_cons.1 (codesPrefixFree_pairwise acTable_prefixFree)
  obtain ⟨hesc, hrows⟩ := List.pairwise_cons.1 hp
  have hapart : ∀ {u : List Bool}, (∀ c ∈ acTable.map AcEntry.codeBits, ∀ l : List Bool,
      ¬ (u.isPrefixOf l = true ∧ c.isPrefixOf l = true)) → ∀ x ∈ acTable.flatMap AcEntry.items, ∀ l : List Bool,
      ¬ (u.isPrefixOf l = true ∧ x.isPrefixOf l = true) := by
    rintro u hu x hx l ⟨hul, hxl⟩
    obtain ⟨e, he, hxe⟩ := List.mem_flatMap.1 hx
    exact hu _ (List.mem_map_of_mem he) l ⟨hul, isPrefixOf_of_mem_items hxe hxl⟩
  refine codesPrefixFree_of_pairwise (.cons (List.forall_mem_cons.2 ⟨heob _ (by simp), ?_⟩) (.cons (hapart hesc) ?_))
  · exact hapart fun c hc => heob c (List.mem_cons_of_mem _ hc)
  · refine List.pairwise_flatMap.2 ⟨fun e _ => ?_, (List.pairwise_map.1 hrows).imp fun hab x hx y hy l hl => ?_⟩
    · refine List.pairwise_pair.2 fun l ⟨hf, ht⟩ => ?_
      have := (isPrefixOf_iff_take.1 hf).symm.trans (by simpa using isPrefixOf_iff_take.1 ht)
      simp at this
    · exact hab l ⟨isPrefixOf_of_mem_items hx hl.1, isPrefixOf_of_mem_items hy hl.2⟩

/-- The Kraft sum of the AC items, table part by table part (R111). -/
theorem acItems_kraft :
    ((eobCode :: escCode :: acTable.flatMap AcEntry.items).map fun b => 2 ^ (17 - b.length)).sum = 2 ^ 17 - 2 ^ 5 := by
  simp only [acTable, List.flatMap_append, List.map_cons, List.sum_cons, List.map_append, List.sum_append]
  decide

/-- What the search in an AC table answers: a row whose code begins the bits, or that there is none. -/
theorem findAc_cases (b : List Bool) : ∀ l : List AcEntry,
    (∃ e ∈ l, e.codeBits.isPrefixOf b = true ∧ findAc l b = some (e.instr (b.getD e.codeLen false)))
    ∨ ((∀ e ∈ l, e.codeBits.isPrefixOf b = false) ∧ findAc l b = none)
  | [] => Or.inr ⟨by simp, rfl⟩
  | e :: l => by
    by_cases hb : e.codeBits.isPrefixOf b = true
    · exact Or.inl ⟨e, by simp, hb, if_pos hb⟩
    · have hskip : findAc (e :: l) b = findAc l b := if_neg hb
      rw [hskip]
      rcases findAc_cases b l with ⟨d, hd, hdb, hf⟩ | ⟨hnone, hf⟩
      · exact Or.inl ⟨d, by simp [hd], hdb, hf⟩
      · exact Or.inr ⟨List.forall_mem_cons.2 ⟨Bool.eq_false_iff.2 hb, hnone⟩, hf⟩

/-- What the AC decoder answers under the table of R110: the item whose code begins the bits, or a mismatch when there is
none (R191, R195). -/
theorem decodeAc_spec_cases (b : List Bool) :
    (eobCode.isPrefixOf b = true ∧ decodeAc .spec b = .ok .eob)
    ∨ (escCode.isPrefixOf b = true ∧ decodeAc .spec b =
        .ok (.esc (BitVec.ofNat 6 (bitField b 6 6)) (BitVec.ofNat 11 (bitField b 12 11))))
    ∨ (∃ e ∈ acTable, e.codeBits.isPrefixOf b = true ∧ decodeAc .spec b = .ok (e.instr (b.getD e.codeLen false)))
    ∨ ((∀ c ∈ acCodes, c.isPrefixOf b = false) ∧ decodeAc .spec b = .reject .acMismatch) := by
  by_cases heob : eobCode.isPrefixOf b = true
  · exact Or.inl ⟨heob, if_pos heob⟩
  by_cases hesc : escCode.isPrefixOf b = true
  · exact Or.inr (Or.inl ⟨hesc, by simp only [decodeAc, heob, hesc, if_true, if_false, Bool.false_eq_true]⟩)
  rcases findAc_cases b acTable with ⟨e, he, heb, hf⟩ | ⟨hnone, hf⟩
  · exact Or.inr (Or.inr (Or.inl ⟨e, he, heb, by simp only [decodeAc, heob, hesc, hf, if_false, Bool.false_eq_true]⟩))
  · refine Or.inr (Or.inr (Or.inr ⟨?_, by simp only [decodeAc, heob, hesc, hf, if_false, Bool.false_eq_true]⟩))
    exact List.forall_mem_cons.2 ⟨Bool.eq_false_iff.2 heob, List.forall_mem_cons.2 ⟨Bool.eq_false_iff.2 hesc,
      List.forall_mem_map.2 hnone⟩⟩

/-- Bits are an AC item of R110 exactly when they begin with a code. -/
theorem decodeAc_spec_ok_iff (b : List Bool) :
    (∃ i, decodeAc .spec b = .ok i) ↔ ∃ c ∈ acCodes, c.isPrefixOf b = true := by
  rcases decodeAc_spec_cases b with ⟨hb, hd⟩ | ⟨hb, hd⟩ | ⟨e, he, hb, hd⟩ | ⟨hnone, hd⟩
  · exact iff_of_true ⟨_, hd⟩ ⟨_, by simp [acCodes], hb⟩
  · exact iff_of_true ⟨_, hd⟩ ⟨_, by simp [acCodes], hb⟩
  · exact iff_of_true ⟨_, hd⟩ ⟨_, codeBits_mem_acCodes he, hb⟩
  · refine iff_of_false (by simp [hd]) ?_
    rintro ⟨c, hc, hb⟩
    simp [hnone c hc] at hb

/-- Bits that begin with no code are a mismatch (R195). -/
theorem decodeAc_spec_noCode {b : List Bool} (h : ∀ c ∈ acCodes, c.isPrefixOf b = false) :
    decodeAc .spec b = .reject .acMismatch := by
  rcases decodeAc_spec_cases b with ⟨hb, _⟩ | ⟨hb, _⟩ | ⟨e, he, hb, _⟩ | ⟨_, hd⟩
  · simp [h eobCode (by simp [acCodes])] at hb
  · simp [h escCode (by simp [acCodes])] at hb
  · simp [h _ (codeBits_mem_acCodes he)] at hb
  · exact hd

/-- The same under another table (R195). -/
theorem decodeAc_table_noCode {rows : List AcRow} {eob esc b : List Bool}
    (h : ∀ c ∈ eob :: esc :: rows.map AcRow.code, c.isPrefixOf b = false) :
    decodeAc (.table rows eob esc) b = .reject .acMismatch := by
  obtain ⟨heob, hesc, hrows⟩ : eob.isPrefixOf b = false ∧ esc.isPrefixOf b = false
      ∧ ∀ row ∈ rows, row.code.isPrefixOf b = false := by simpa using h
  simp only [decodeAc, heob, hesc, findAcRow_none hrows, if_false, Bool.false_eq_true]

/-- Under another table no bits are an instruction. -/
theorem decodeAc_ok_spec {a : AcCode} {b : List Bool} {i : Instr} (h : decodeAc a b = .ok i) : a = .spec := by
  cases a with
  | spec => rfl
  | table rows eob esc =>
    simp only [decodeAc] at h
    split at h
    · cases h
    · split at h
      · cases h
      · split at h <;> cases h

/-! The AC items. -/

/-- The rows of AC_TABLE stand in the order of their constructors, so an instruction of the AC context that is no end of
block and no escape is the row at its constructor's index. -/
theorem acItem_cases {i : Instr} (h : i.context = .acItem) :
    i = .eob ∨ (∃ run level, i = .esc run level) ∨ ∃ e ∈ acTable, ∃ neg, i = e.instr neg := by
  have hindex : i = .eob ∨ (∃ run level, i = .esc run level)
      ∨ ∃ e, acTable[i.ctorIdx]? = some e ∧ ∃ neg, i = e.instr neg := by
    cases i
    case eob => exact Or.inl rfl
    case esc run level => exact Or.inr (Or.inl ⟨run, level, rfl⟩)
    all_goals first
      | (cases h; done)
      | exact Or.inr (Or.inr ⟨_, rfl, _, rfl⟩)
  exact hindex.imp_right (Or.imp_right fun ⟨e, he, hi⟩ => ⟨e, List.mem_of_getElem? he, hi⟩)

/-- A row's instruction is encoded as its code and the sign bit (R107). -/
theorem encode_acRow {e : AcEntry} (he : e ∈ acTable) (c : Config) (neg : Bool) :
    encode c (e.instr neg) = .bits (e.codeBits ++ [neg]) := by
  have hrow : ∀ e ∈ acTable, (fun c neg => encode c (e.instr neg)) = fun _ neg => .bits (e.codeBits ++ [neg]) :=
    List.map_inj_left.1 rfl
  exact congrFun (congrFun (hrow e he) c) neg

/-- The AC items are instructions of the machines with the table of R110. -/
theorem wellFormed_acItem {c : Config} {i : Instr} (h : i.context = .acItem) :
    WellFormed c i = decide (c.acCode = .spec) := by
  have hrow : ∀ e ∈ acTable, (fun c neg => WellFormed c (e.instr neg)) = fun c _ => decide (c.acCode = .spec) :=
    List.map_inj_left.1 rfl
  rcases acItem_cases h with rfl | ⟨run, level, rfl⟩ | ⟨e, he, neg, rfl⟩
  · rfl
  · rfl
  · exact congrFun (congrFun (hrow e he) c) neg

/-! The DC code of R105. -/

/-- The size code of a DC row, without its literal (R105). -/
def DcEntry.codeBits (e : DcEntry) : List Bool := natBits e.codeLen e.code

@[simp] theorem DcEntry.codeBits_length (e : DcEntry) : e.codeBits.length = e.codeLen := natBits_length _ _

/-- The luma or the chroma column of R105. -/
def dcTable (luma : Bool) : List DcEntry := if luma then dcLumaTable else dcChromaTable

/-- The context in which a column is read (R165). -/
def dcPredContext (luma : Bool) : Context := if luma then .dcLuma else .dcChroma

/-- The word that a column leaves unused: seven ones for luma, eight for chroma (R113). -/
def dcUnused (luma : Bool) : List Bool := List.replicate (if luma then 7 else 8) true

theorem dcTable_unused_prefixFree (luma : Bool) :
    codesPrefixFree (dcUnused luma :: (dcTable luma).map DcEntry.codeBits) = true := by
  cases luma <;> exact codesPrefixFree_of_splitsApart (n := 9) (by decide)

theorem dcTable_unused_covers (luma : Bool) :
    covers 8 (dcUnused luma :: (dcTable luma).map DcEntry.codeBits) = true := by cases luma <;> decide

theorem decode_dcPred (c : Config) (luma : Bool) (b : List Bool) :
    decode c (dcPredContext luma) (.bits b) = decodeDcPred c.dcCode luma b := by cases luma <;> rfl

/-- What the search in a DC column answers: a row whose size code begins the bits, or that there is none. -/
theorem findDc_cases (b : List Bool) : ∀ l : List DcEntry,
    (∃ e ∈ l, e.codeBits.isPrefixOf b = true ∧ findDc l b = some (e.instr (bitField b e.codeLen e.size)))
    ∨ ((∀ e ∈ l, e.codeBits.isPrefixOf b = false) ∧ findDc l b = none)
  | [] => Or.inr ⟨by simp, rfl⟩
  | e :: l => by
    by_cases hb : e.codeBits.isPrefixOf b = true
    · exact Or.inl ⟨e, by simp, hb, if_pos hb⟩
    · have hskip : findDc (e :: l) b = findDc l b := if_neg hb
      rw [hskip]
      rcases findDc_cases b l with ⟨d, hd, hdb, hf⟩ | ⟨hnone, hf⟩
      · exact Or.inl ⟨d, by simp [hd], hdb, hf⟩
      · exact Or.inr ⟨List.forall_mem_cons.2 ⟨Bool.eq_false_iff.2 hb, hnone⟩, hf⟩

theorem decodeDcPred_candidate_some {luma : Bool} {b : List Bool} {i : Instr} (h : findDc (dcTable luma) b = some i) :
    decodeDcPred .candidate luma b = .ok i := by
  rw [dcTable] at h
  simp only [decodeDcPred, h]

theorem decodeDcPred_candidate_none {luma : Bool} {b : List Bool} (h : findDc (dcTable luma) b = none) :
    decodeDcPred .candidate luma b = .reject .dcMismatch := by
  rw [dcTable] at h
  simp only [decodeDcPred, h]

/-- What the DC decoder answers under the candidate: the row whose size code begins the bits, or a mismatch when there is
none (R164, R167). -/
theorem decodeDcPred_candidate_cases (luma : Bool) (b : List Bool) :
    (∃ e ∈ dcTable luma, e.codeBits.isPrefixOf b = true
      ∧ decodeDcPred .candidate luma b = .ok (e.instr (bitField b e.codeLen e.size)))
    ∨ ((∀ e ∈ dcTable luma, e.codeBits.isPrefixOf b = false)
      ∧ decodeDcPred .candidate luma b = .reject .dcMismatch) := by
  rcases findDc_cases b (dcTable luma) with ⟨e, he, hb, hf⟩ | ⟨hnone, hf⟩
  · exact Or.inl ⟨e, he, hb, decodeDcPred_candidate_some hf⟩
  · exact Or.inr ⟨hnone, decodeDcPred_candidate_none hf⟩

/-- Bits are a DC item of the candidate exactly when they begin with a size code. -/
theorem decodeDcPred_candidate_ok_iff (luma : Bool) (b : List Bool) :
    (∃ i, decodeDcPred .candidate luma b = .ok i)
      ↔ ∃ c ∈ (dcTable luma).map DcEntry.codeBits, c.isPrefixOf b = true := by
  rcases decodeDcPred_candidate_cases luma b with ⟨e, he, hb, hd⟩ | ⟨hnone, hd⟩
  · exact iff_of_true ⟨_, hd⟩ ⟨_, List.mem_map_of_mem he, hb⟩
  · refine iff_of_false (by simp [hd]) ?_
    rintro ⟨c, hc, hb⟩
    obtain ⟨e, he, rfl⟩ := List.mem_map.1 hc
    simp [hnone e he] at hb

/-- Bits that begin with the unused word are a mismatch (R113, R167). -/
theorem decodeDcPred_candidate_unused {luma : Bool} {b : List Bool} (h : (dcUnused luma).isPrefixOf b = true) :
    decodeDcPred .candidate luma b = .reject .dcMismatch := by
  rcases decodeDcPred_candidate_cases luma b with ⟨e, he, hb, _⟩ | ⟨_, hd⟩
  · simp [no_prefix_of_unused (dcTable_unused_prefixFree luma) h _ (List.mem_map_of_mem he)] at hb
  · exact hd

/-- Under another DC_CODE no bits are an instruction. -/
theorem decodeDcPred_ok_candidate {a : DcCode} {luma : Bool} {b : List Bool} {i : Instr}
    (h : decodeDcPred a luma b = .ok i) : a = .candidate := by
  cases a with
  | candidate => rfl
  | table y c =>
    simp only [decodeDcPred] at h
    split at h <;> cases h
  | free =>
    simp only [decodeDcPred] at h
    split at h <;> cases h

/-- At most one row of a column has its size code at the beginning of some bits. -/
theorem dcTable_row_unique {luma : Bool} {d e : DcEntry} (hd : d ∈ dcTable luma) (he : e ∈ dcTable luma)
    {b : List Bool} (hdb : d.codeBits.isPrefixOf b = true) (heb : e.codeBits.isPrefixOf b = true) : d = e := by
  by_contra hne
  have hp := List.pairwise_map.1
    (List.pairwise_cons.1 (codesPrefixFree_pairwise (dcTable_unused_prefixFree luma))).2
  have hsymm : Std.Symm fun d e : DcEntry =>
      ∀ l : List Bool, ¬ (d.codeBits.isPrefixOf l = true ∧ e.codeBits.isPrefixOf l = true) :=
    ⟨fun _ _ h l hl => h l hl.symm⟩
  exact hp.forall hd he hne b ⟨hdb, heb⟩

/-- A row of the candidate and its literal decode to the row's instruction, whatever follows (R164). -/
theorem decodeDcPred_candidate_row {luma : Bool} {e : DcEntry} (he : e ∈ dcTable luma) {v : Nat} (hv : v < 2 ^ e.size)
    (more : List Bool) :
    decodeDcPred .candidate luma (e.codeBits ++ natBits e.size v ++ more) = .ok (e.instr v) := by
  have hb : e.codeBits.isPrefixOf (e.codeBits ++ natBits e.size v ++ more) = true := by
    rw [List.append_assoc]; exact isPrefixOf_append_self _ _
  rcases decodeDcPred_candidate_cases luma (e.codeBits ++ natBits e.size v ++ more) with ⟨d, hd, hdb, hdec⟩ | ⟨hnone, _⟩
  · rw [hdec, dcTable_row_unique hd he hdb hb, bitField_natBits e.codeBits_length, Nat.mod_eq_of_lt hv]
  · exact absurd ((hnone e he).symm.trans hb) Bool.false_ne_true

/-- A row's size code is at most 8 bits, its literal too (R105). -/
theorem dcTable_widths (luma : Bool) : ∀ e ∈ dcTable luma, e.codeLen ≤ 8 ∧ e.size ≤ 8 := by
  cases luma <;> decide

/-! The DC items. -/

/-- A row's instruction is encoded as its size code and its literal (R105). -/
theorem encode_dcRow {luma : Bool} {e : DcEntry} (he : e ∈ dcTable luma) (c : Config) (v : Nat) :
    encode c (e.instr v) = .bits (e.codeBits ++ natBits e.size v) := by
  have hrow : ∀ e ∈ dcTable luma, (fun c v => encode c (e.instr v)) =
      fun _ v => .bits (e.codeBits ++ natBits e.size (v % 2 ^ e.size)) := by
    cases luma <;> exact List.map_inj_left.1 rfl
  rw [← natBits_mod]
  exact congrFun (congrFun (hrow e he) c) v

/-- The items of a DC context are the rows of its column with a literal below 2^size (R105). -/
theorem dcPred_cases {luma : Bool} {i : Instr} (h : i.context = dcPredContext luma) :
    ∃ e ∈ dcTable luma, ∃ v, v < 2 ^ e.size ∧ i = e.instr v := by
  cases luma <;> cases i
  case false.dcc0 | true.dcy0 => simp [dcTable, dcLumaTable, dcChromaTable]
  case true.dcy1 b | true.dcy2 b | true.dcy3 b | true.dcy4 b | true.dcy5 b | true.dcy6 b | true.dcy7 b | true.dcy8 b
      | false.dcc1 b | false.dcc2 b | false.dcc3 b | false.dcc4 b | false.dcc5 b | false.dcc6 b | false.dcc7 b
      | false.dcc8 b =>
    simp only [dcTable, dcLumaTable, dcChromaTable, if_true, if_false, Bool.false_eq_true, List.exists_mem_cons_iff,
      reduceCtorEq, and_false, exists_false, false_or]
    exact Or.inl ⟨b.toNat, b.isLt, by simp⟩
  all_goals cases h

/-- A DC row's instruction is one of the machines with the candidate. -/
theorem wellFormed_dcRow {luma : Bool} {e : DcEntry} (he : e ∈ dcTable luma) (c : Config) (v : Nat) :
    WellFormed c (e.instr v) = decide (c.dcCode = .candidate) := by
  have hrow : ∀ e ∈ dcTable luma, (fun c v => WellFormed c (e.instr v)) = fun c _ => decide (c.dcCode = .candidate) := by
    cases luma <;> exact List.map_inj_left.1 rfl
  exact congrFun (congrFun (hrow e he) c) v

end Sys2Proof
end

section
/-! PROOFS. The decoder and the encoder (O1 DecodeEncodedInstruction, O2 StreamCodesReadBack), the space that the codes
leave unused (O3 AcCodeUnusedSpace, O4 DcCodeUnusedPatterns) and some words of the table (O5 WordsOfTheTableDecode). -/

namespace Sys2Proof.Machine

/-! The decoder on the encoding of each family, with whatever follows it. -/

/-- An AC item of the table of R110 decodes to itself (R107 to R110). -/
theorem decode_encode_acItem {c : Config} {i : Instr} (hi : i.context = .acItem) (hwf : WellFormed c i = true)
    (moreBits : List Bool) (moreBytes : List Byte) :
    decode c .acItem ((encode c i).followedBy moreBits moreBytes) = .ok i := by
  rw [wellFormed_acItem hi, decide_eq_true_eq] at hwf
  rcases acItem_cases hi with rfl | ⟨run, level, rfl⟩ | ⟨e, he, neg, rfl⟩
  · simp only [encode, Code.followedBy, decode, hwf]
    rfl
  · simp only [encode, Code.followedBy, decode, hwf]
    exact decodeAc_spec_escape run level moreBits
  · simp only [encode_acRow he, Code.followedBy, decode, hwf]
    exact decodeAc_spec_row he neg moreBits

/-- A DC item of the candidate decodes to itself (R105). -/
theorem decode_encode_dcPred {c : Config} {luma : Bool} {i : Instr} (hi : i.context = dcPredContext luma)
    (hwf : WellFormed c i = true) (moreBits : List Bool) (moreBytes : List Byte) :
    decode c (dcPredContext luma) ((encode c i).followedBy moreBits moreBytes) = .ok i := by
  obtain ⟨e, he, v, hv, rfl⟩ := dcPred_cases hi
  rw [wellFormed_dcRow he, decide_eq_true_eq] at hwf
  rw [encode_dcRow he, Code.followedBy, decode_dcPred, hwf]
  exact decodeDcPred_candidate_row he hv moreBits

/-- A flat literal decodes to itself (R103). -/
theorem decode_encode_dcf (c : Config) (d : BitVec 10) (moreBits : List Bool) (moreBytes : List Byte) :
    decode c .dcFlat ((encode c (.dcf d)).followedBy moreBits moreBytes) = .ok (.dcf d) := by
  have hfield := bitField_natBits (a := []) (k := 0) rfl 10 d.toNat moreBits
  simp only [List.nil_append, Nat.mod_eq_of_lt d.isLt] at hfield
  simp only [encode, Code.followedBy, decode, hfield, BitVec.ofNat_toNat, BitVec.setWidth_eq]

/-- A valid segment header decodes to itself (R114). -/
theorem decode_encode_segHdr {c : Config} {length typeId quant version : Half}
    (h : WellFormed c (.segHdr length typeId quant version) = true) (moreBits : List Bool) (moreBytes : List Byte) :
    decode c .segHdr ((encode c (.segHdr length typeId quant version)).followedBy moreBits moreBytes)
      = .ok (.segHdr length typeId quant version) := by
  obtain ⟨htype, hversion⟩ : typeId = c.segTypeId ∧ version ∈ c.validVersions := by simpa [WellFormed] using h
  simp only [encode, Code.followedBy, decode, decodeSegHdr]
  generalize hb : natBytes 2 length.toNat ++ natBytes 2 typeId.toNat ++ natBytes 2 quant.toNat
    ++ natBytes 2 version.toNat ++ moreBytes = b
  have hlen : 8 ≤ b.length := by simp [← hb]; omega
  have h0 : BitVec.ofNat 16 (byteField b 0 2) = length := by
    simpa [← hb] using byteField_natBytes (a := []) (k := 0) rfl (n := 2) rfl length _
  have h2 : BitVec.ofNat 16 (byteField b 2 2) = typeId := by
    simpa [← hb] using byteField_natBytes (a := natBytes 2 length.toNat) (k := 2) (by simp) (n := 2) rfl typeId _
  have h4 : BitVec.ofNat 16 (byteField b 4 2) = quant := by
    simpa [← hb] using byteField_natBytes (a := natBytes 2 length.toNat ++ natBytes 2 typeId.toNat) (k := 4) (by simp)
      (n := 2) rfl quant _
  have h6 : BitVec.ofNat 16 (byteField b 6 2) = version := by
    simpa [← hb] using byteField_natBytes
      (a := natBytes 2 length.toNat ++ natBytes 2 typeId.toNat ++ natBytes 2 quant.toNat) (k := 6) (by simp)
      (n := 2) rfl version _
  rw [h0, h2, h4, h6, if_pos ⟨hlen, htype, by simpa using hversion⟩]

/-- The two words at the beginning of a chunk of the tiled container (R115). -/
theorem tiled_words (magic typ : Word) (more : List Byte) :
    BitVec.ofNat 32 (byteField (natBytes 4 magic.toNat ++ natBytes 4 typ.toNat ++ more) 0 4) = magic
    ∧ BitVec.ofNat 32 (byteField (natBytes 4 magic.toNat ++ natBytes 4 typ.toNat ++ more) 4 4) = typ := by
  constructor
  · simpa using byteField_natBytes (a := []) (k := 0) rfl (n := 4) rfl magic (natBytes 4 typ.toNat ++ more)
  · exact byteField_natBytes (a := natBytes 4 magic.toNat) (by simp) (n := 4) rfl typ more

/-- A known texture header decodes to itself, with 8 bytes left (R115). -/
theorem decode_encode_tiledTex {c : Config} {magic typ : Word} (h : WellFormed c (.tiledTex magic typ) = true)
    (moreBits : List Bool) (moreBytes : List Byte) :
    decode c (.tiled 8) ((encode c (.tiledTex magic typ)).followedBy moreBits moreBytes) = .ok (.tiledTex magic typ) := by
  obtain ⟨hmagic, htyp⟩ : magic = c.texMagic ∧ c.texTypes.contains typ = true := by simpa [WellFormed] using h
  obtain ⟨h0, h4⟩ := tiled_words magic typ moreBytes
  simp only [encode, Code.followedBy, decode, decodeTiled, h0, h4]
  rw [if_pos ⟨le_rfl, hmagic⟩, if_pos htyp]

/-- The first bytes that stand for a raw chunk are no texture header (R115). -/
theorem decode_encode_rawChunk (c : Config) (moreBits : List Bool) (moreBytes : List Byte) :
    decode c (.tiled 163840) ((encode c .rawChunk).followedBy moreBits moreBytes) = .ok .rawChunk := by
  obtain ⟨h0, _⟩ := tiled_words (~~~c.texMagic) 0 moreBytes
  have hmagic : ~~~c.texMagic ≠ c.texMagic := by
    intro h
    have := congrArg (·.getLsbD 0) h
    simp at this
  simp only [encode, Code.followedBy, decode, decodeTiled]
  rw [if_neg fun h => hmagic (h0 ▸ h.2), if_pos le_rfl]

/-- A recognised texture pattern decodes to itself (R118). -/
theorem decode_encode_texPrefix {c : Config} {p : Half} (h : WellFormed c (.texPrefix p) = true)
    (moreBits : List Bool) (moreBytes : List Byte) :
    decode c .probe ((encode c (.texPrefix p)).followedBy moreBits moreBytes) = .ok (.texPrefix p) := by
  have hfield := byteField_natBytes (a := []) (k := 0) rfl (n := 2) rfl p moreBytes
  simp only [List.nil_append] at hfield
  simp only [encode, Code.followedBy, decode, decodeProbe, hfield]
  exact if_pos ⟨by simp, h⟩

/-- A CTRL value decodes to the command it was made of (R119). -/
theorem decodeHost_hostWord : ∀ start mode reorg srcErr : Bool, decodeHost (hostWord start mode reorg srcErr) =
    if start then .start mode reorg srcErr else .ctrlSet mode reorg srcErr := by decide

/-- Settles O1: each family reads its own encoding back, the bitstream's because no code begins another, the records'
field by field. -/
theorem decodeEncodedInstruction : Obligations.DecodeEncodedInstruction := by
  unfold Obligations.DecodeEncodedInstruction
  intro c i moreBits moreBytes hwf
  by_cases hx : i.context ∈ [Context.dcLuma, .dcChroma, .acItem]
  · simp only [List.mem_cons, List.not_mem_nil, or_false] at hx
    rcases hx with hx | hx | hx <;> rw [hx]
    · exact decode_encode_dcPred (luma := true) hx hwf moreBits moreBytes
    · exact decode_encode_dcPred (luma := false) hx hwf moreBits moreBytes
    · exact decode_encode_acItem hx hwf moreBits moreBytes
  cases i
  case dcf d => exact decode_encode_dcf c d moreBits moreBytes
  case segHdr length typeId quant version => exact decode_encode_segHdr hwf moreBits moreBytes
  case tiledTex magic typ => exact decode_encode_tiledTex hwf moreBits moreBytes
  case rawChunk => exact decode_encode_rawChunk c moreBits moreBytes
  case texPrefix p => exact decode_encode_texPrefix hwf moreBits moreBytes
  case start mode reorg srcErr => exact congrArg Decoded.ok (decodeHost_hostWord true mode reorg srcErr)
  case ctrlSet mode reorg srcErr => exact congrArg Decoded.ok (decodeHost_hostWord false mode reorg srcErr)
  all_goals exact absurd (by simp [Instr.context]) hx

/-! The encoding of what the decoder answers. -/

/-- Bits that begin with a code are the code, a field and the bits after it. -/
theorem eq_append_field {u b : List Bool} (h : u.isPrefixOf b = true) (n : Nat) :
    b = u ++ (b.drop u.length).take n ++ b.drop (u.length + n) := by
  conv_lhs => rw [eq_append_of_isPrefixOf h, ← List.take_append_drop n (b.drop u.length), List.drop_drop]
  rw [List.append_assoc]

/-- Bits that decode to an AC item of the opcode table begin with its encoding, under the table of R110 alone (R107 to
R110). -/
theorem decodeAc_readBack {c : Config} {b : List Bool} {i : Instr} (h : decodeAc c.acCode b = .ok i)
    (hb : 23 ≤ b.length) :
    WellFormed c i = true ∧ i.context = .acItem ∧ ∃ e rest, encode c i = .bits e ∧ b = e ++ rest := by
  have hctx := decodeAc_context h
  have hspec := decodeAc_ok_spec h
  rw [wellFormed_acItem hctx, decide_eq_true_eq]
  refine ⟨hspec, hctx, ?_⟩
  rw [hspec] at h
  rcases decodeAc_spec_cases b with ⟨hp, hd⟩ | ⟨hp, hd⟩ | ⟨e, he, hp, hd⟩ | ⟨_, hd⟩ <;> rw [hd] at h <;> cases h
  · exact ⟨eobCode, _, rfl, eq_append_of_isPrefixOf hp⟩
  · refine ⟨_, b.drop 23, rfl, ?_⟩
    have hrun : b = escCode ++ (b.drop 6).take 6 ++ b.drop 12 := eq_append_field hp 6
    have hlevel : b.drop 12 = (b.drop 12).take 11 ++ b.drop 23 := by
      conv_lhs => rw [← List.take_append_drop 11 (b.drop 12), List.drop_drop]
    rw [natBits_ofNat_bitField (by omega), natBits_ofNat_bitField (by omega), List.append_assoc, ← hlevel]
    exact hrun
  · have hlen : e.codeLen < b.length := lt_of_le_of_lt (acTable_codeLen_le e he) (by omega)
    have hsign : [b.getD e.codeLen false] = (b.drop e.codeLen).take 1 := by
      rw [List.take_one_drop_eq_of_lt_length hlen, List.getD_eq_getElem _ _ hlen, List.get_eq_getElem]
    refine ⟨_, b.drop (e.codeLen + 1), encode_acRow he c _, ?_⟩
    have hfield := eq_append_field hp 1
    rwa [e.codeBits_length, ← hsign] at hfield

/-- Bits that decode to a predictive DC item of the opcode table begin with its encoding, under the candidate alone
(R105). -/
theorem decodeDcPred_readBack {c : Config} {luma : Bool} {b : List Bool} {i : Instr}
    (h : decodeDcPred c.dcCode luma b = .ok i) (hb : 16 ≤ b.length) :
    WellFormed c i = true ∧ i.context = dcPredContext luma ∧ ∃ e rest, encode c i = .bits e ∧ b = e ++ rest := by
  have hctx := decodeDcPred_context h
  have hcand := decodeDcPred_ok_candidate h
  rw [hcand] at h
  rcases decodeDcPred_candidate_cases luma b with ⟨e, he, hp, hd⟩ | ⟨_, hd⟩ <;> rw [hd] at h <;> cases h
  obtain ⟨hcode, hsize⟩ := dcTable_widths luma e he
  refine ⟨by rw [wellFormed_dcRow he, hcand]; rfl, hctx, _, b.drop (e.codeLen + e.size), encode_dcRow he c _, ?_⟩
  have hfield := eq_append_field hp e.size
  rwa [e.codeBits_length, ← natBits_bitField (by omega)] at hfield

/-- Settles O2: the decoder's answer says which code and which fields stand in the bits. -/
theorem streamCodesReadBack : Obligations.StreamCodesReadBack := by
  unfold Obligations.StreamCodesReadBack
  intro c x b i hx hb hd
  simp only [List.mem_cons, List.not_mem_nil, or_false] at hx
  rcases hx with rfl | rfl | rfl | rfl
  case inl =>
    cases hd
    refine ⟨rfl, rfl, _, b.drop 10, rfl, ?_⟩
    rw [natBits_ofNat_bitField (by omega)]
    exact (List.take_append_drop 10 b).symm
  case inr.inl => exact decodeDcPred_readBack (luma := true) hd (by omega)
  case inr.inr.inl => exact decodeDcPred_readBack (luma := false) hd (by omega)
  case inr.inr.inr => exact decodeAc_readBack hd hb

/-! The space that the codes leave unused (R111, R113). -/

/-- Settles O3: twelve zeros make the code complete. -/
theorem acCodeUnusedSpace : Obligations.AcCodeUnusedSpace := by
  unfold Obligations.AcCodeUnusedSpace
  refine ⟨rfl, acItems_prefixFree, acItems_kraft, fun b hb => ?_⟩
  rw [decodeAc_spec_ok_iff]
  exact exists_prefix_iff_of_complete acCodes_unused_prefixFree acCodes_unused_covers (by omega)

/-- Under the candidate a DC item decodes exactly where the column's unused word does not stand (R113). -/
theorem decode_dcPred_ok_iff {c : Config} (hc : c.dcCode = .candidate) (luma : Bool) {b : List Bool}
    (hb : 8 ≤ b.length) :
    (∃ i, decode c (dcPredContext luma) (.bits b) = .ok i) ↔ b.take (dcUnused luma).length ≠ dcUnused luma := by
  simp only [decode_dcPred, hc]
  rw [decodeDcPred_candidate_ok_iff]
  exact exists_prefix_iff_of_complete (dcTable_unused_prefixFree luma) (dcTable_unused_covers luma) hb

/-- Settles O4: seven or eight ones make each column complete. -/
theorem dcCodeUnusedPatterns : Obligations.DcCodeUnusedPatterns := by
  unfold Obligations.DcCodeUnusedPatterns
  exact fun c b hc hb => ⟨decode_dcPred_ok_iff hc true hb, decode_dcPred_ok_iff hc false hb, _, rfl⟩

/-- Settles O5: each word is evaluated. -/
theorem wordsOfTheTableDecode : Obligations.WordsOfTheTableDecode := by
  unfold Obligations.WordsOfTheTableDecode
  exact ⟨rfl, rfl, rfl, rfl, rfl, rfl, rfl, rfl, rfl, rfl, rfl, rfl, rfl⟩

end Sys2Proof.Machine
end

section
/-! PROOFS. The steps that decode: an item where its encoding stands (O7 StreamBitsRunTheirInstruction), the effects of
the AC and DC items (O8 AcTableItems, O11 FlatDcItems, O12 LumaDcItems, O13 ChromaDcItems), the mismatches (O28
AcMismatchStep, O29 DcMismatchStep) and the segment header (O26 SegmentHeaderStep). -/

namespace Sys2Proof.Machine

/-! The items of the stream run where their encoding stands (O7). -/

/-- The flat DC items (R103). -/
theorem dcFlat_cases {i : Instr} (h : i.context = .dcFlat) : ∃ d, i = .dcf d := by
  cases i
  case dcf d => exact ⟨d, rfl⟩
  all_goals cases h

/-- The encoding of a predictive DC item is no longer than both its fields can be (R105). -/
theorem encode_dcPred_length_le {c : Config} {luma : Bool} {i : Instr} {e : List Bool}
    (hi : i.context = dcPredContext luma) (h : encode c i = .bits e) : e.length ≤ 16 := by
  obtain ⟨d, hd, v, _, rfl⟩ := dcPred_cases hi
  cases (encode_dcRow hd c v).symm.trans h
  have hwidths := dcTable_widths luma d hd
  simp only [List.length_append, DcEntry.codeBits_length, natBits_length]
  omega

/-- The encoding of an instruction of the bitstream is no longer than an escape (R107, R109). -/
theorem encode_stream_length_le {c : Config} {i : Instr} {e : List Bool}
    (hx : i.context ∈ [Context.dcFlat, .dcLuma, .dcChroma, .acItem]) (h : encode c i = .bits e) : e.length ≤ 23 := by
  simp only [List.mem_cons, List.not_mem_nil, or_false] at hx
  rcases hx with hflat | hluma | hchroma | hac
  · obtain ⟨d, rfl⟩ := dcFlat_cases hflat
    cases h; simp
  · exact (encode_dcPred_length_le (luma := true) hluma h).trans (by decide)
  · exact (encode_dcPred_length_le (luma := false) hchroma h).trans (by decide)
  · rcases acItem_cases hac with rfl | ⟨run, level, rfl⟩ | ⟨d, hd, neg, rfl⟩
    · cases h; decide
    · cases h; simp [escCode]
    · cases (encode_acRow hd c neg).symm.trans h
      have hcode := acTable_codeLen_le d hd
      simp only [List.length_append, AcEntry.codeBits_length, List.length_singleton]
      omega

/-- The context of the current block's DC item (R162, R165). -/
theorem dcContext_flat {s : State} (h : s.hdr.flat = true) : dcContext s = .dcFlat := if_pos h

theorem dcContext_pred {s : State} (h : s.hdr.flat = false) :
    dcContext s = dcPredContext (decide (s.channel = .y)) := by
  by_cases hy : s.channel = .y <;> simp [dcContext, dcPredContext, h, hy]

/-- The channel of the block at BLK is that of its role (R161). -/
theorem channel_eq {s : State} {r : Role} (h : s.cfg.blockRole[s.blk]? = some r) : s.channel = r.channel := by
  simp [State.channel, State.role, Config.role, h]

/-- In SEG_DECODE, stream bits that begin with the encoding of an instruction of the context that is due run it (R46). -/
theorem step_of_streamBegins {s : State} {i : Instr} {e : List Bool} (ht : EngineTurn s) (hp : s.phase = .segDecode)
    (hc : CursorOk s.mem s.cursor) (hwf : WellFormed s.cfg i = true) (he : encode s.cfg i = .bits e)
    (hb : StreamBegins s.mem s.cursor e) (hx : i.context ∈ [Context.dcFlat, .dcLuma, .dcChroma, .acItem])
    (hdue : (s.stage = .acItem ∧ i.context = .acItem) ∨ (s.stage = .dcItem ∧ i.context = dcContext s)) :
    step s = exec i (popHost s) := by
  have hlen := encode_stream_length_le hx he
  have hwin := lookaheadBlocks_ge s
  obtain ⟨rest, hrest⟩ := lookahead_append hc hb (by omega)
  have hd := decodeEncodedInstruction s.cfg i rest [] hwf
  rw [he, Code.followedBy, ← hrest] at hd
  obtain ⟨_, hdc, hac, _⟩ := stepRunsDecodedInstruction s i
  rcases hdue with ⟨hs, hi⟩ | ⟨hs, hi⟩ <;> rw [hi] at hd
  · exact hac ht hp hs hd
  · exact hdc ht hp hs hd

/-- Settles O7: the decoder gets the stream bits, and reads an encoding back whatever follows (O1). -/
theorem streamBitsRunTheirInstruction : Obligations.StreamBitsRunTheirInstruction := by
  unfold Obligations.StreamBitsRunTheirInstruction
  refine ⟨fun s i e ht hp hc hwf he hb hdue => ?run, fun s r hr => ?channel⟩
  case run =>
    suffices hdue' : (s.stage = .acItem ∧ i.context = .acItem) ∨ (s.stage = .dcItem ∧ i.context = dcContext s) from
      step_of_streamBegins ht hp hc hwf he hb (by rcases hdue with h | h | h | h <;> simp [h]) hdue'
    rcases hdue with hac | ⟨hs, hflat, hi⟩ | ⟨hs, hflat, hi, r, hr, hrole⟩ | ⟨hs, hflat, hi, r, hr, hrole⟩
    · exact Or.inl hac
    · exact Or.inr ⟨hs, hi.trans (dcContext_flat hflat).symm⟩
    · have hy : r.channel = .y := by clear hrole; revert r; decide
      exact Or.inr ⟨hs, by rw [hi, dcContext_pred hflat, channel_eq hrole, hy]; rfl⟩
    · have hy : r.channel ≠ .y := by clear hrole; revert r; decide
      exact Or.inr ⟨hs, by rw [hi, dcContext_pred hflat, channel_eq hrole, decide_eq_false hy]; rfl⟩
  case channel =>
    rw [channel_eq hr]
    cases r <;> decide

/-! The AC items (O8). -/

/-- A step on a table row's code and sign bit is that row's item (R192). -/
theorem step_tableRow {s : State} {rows : List AcRow} {eob esc : List Bool} (ht : EngineTurn s)
    (hp : s.phase = .segDecode) (hs : s.stage = .acItem) (hc : CursorOk s.mem s.cursor)
    (ha : s.cfg.acCode = .table rows eob esc) (hl : s.cfg.acCode.legal = true) {row : AcRow} (hm : row ∈ rows)
    {neg : Bool} (hb : StreamBegins s.mem s.cursor (row.code ++ [neg])) :
    step s = .next (acVlcItem row.code.length row.run row.mag neg (popHost s)) := by
  have hreach : row.code.length ≤ codeReach s :=
    acCode_le_codeReach ha (List.mem_cons_of_mem _ (List.mem_cons_of_mem _ (List.mem_map_of_mem hm)))
  have hwin := codeReach_le s
  obtain ⟨rest, hrest⟩ := lookahead_append hc hb (by simp only [List.length_append, List.length_singleton]; omega)
  have hpre : row.code.isPrefixOf (row.code ++ [neg] ++ rest) = true := by
    rw [List.append_assoc]; exact isPrefixOf_append_self _ _
  have hd := decodeAc_row (ha ▸ hl) hm hpre
  have hsign : (row.code ++ [neg] ++ rest).getD row.code.length false = neg := by simp
  rw [hsign, ← ha, ← hrest] at hd
  exact step_acTable ht hp hs hd

/-- The rows of a legal table have codes of at least one bit. -/
theorem legal_table_row_pos {rows : List AcRow} {eob esc : List Bool} (h : (AcCode.table rows eob esc).legal = true)
    {row : AcRow} (hm : row ∈ rows) : 1 ≤ row.code.length := by
  simp only [AcCode.legal, Bool.and_eq_true, List.all_eq_true, Bool.not_eq_true', List.isEmpty_eq_false_iff] at h
  exact List.length_pos_iff.2 (h.2 row hm)

/-- Settles O8: the instructions of the context are those of the table's rows, and a row, of this table or another, is an
AC_VLC item. -/
theorem acTableItems : Obligations.AcTableItems := by
  unfold Obligations.AcTableItems
  refine ⟨fun i hi => acItem_cases hi, ?rows, ?table⟩
  case rows =>
    intro e he neg s
    exact ⟨_, congrFun (congrFun (exec_acTable_row e he) neg) s,
      acVlcItem_effect (acTable_codeLen_le e he) e.run e.mag neg s⟩
  case table =>
    intro s rows eob esc ht hp hs hc ha hl row hm neg hb
    exact ⟨_, _, consumePieces_pieces (legal_table_row_pos (ha ▸ hl) hm), step_tableRow ht hp hs hc ha hl hm hb,
      acVlcItem_effect_pieces row.code.length row.run row.mag neg (popHost s)⟩

/-! The DC items (O11 to O13). -/

/-- Settles O11: DC_FLAT is dcFlatItem of the signed literal. -/
theorem flatDcItems : Obligations.FlatDcItems := by
  unfold Obligations.FlatDcItems
  exact fun d s => ⟨_, rfl, dcFlatItem_effect d.toInt s⟩

/-- The channel whose predictor a column's items use (R166, R170). -/
def dcChannel (luma : Bool) (s : State) : Channel := if luma then .y else s.channel

/-- A column's row is the DC_PRED item of the row's own numbers (R105, R164). -/
theorem exec_dcRow {luma : Bool} {e : DcEntry} (he : e ∈ dcTable luma) {v : Nat} (hv : v < 2 ^ e.size) (s : State) :
    exec (e.instr v) s = .next (dcPredItem (dcChannel luma s) e.codeLen e.size v s) := by
  have hrow : ∀ e ∈ dcTable luma, (fun v s => exec (e.instr v) s) =
      fun v s => .next (dcPredItem (dcChannel luma s) e.codeLen e.size (v % 2 ^ e.size) s) := by
    cases luma <;> exact List.map_inj_left.1 rfl
  rw [congrFun (congrFun (hrow e he) v) s, Nat.mod_eq_of_lt hv]

/-- The three cases of a candidate's delta (R106). -/
theorem dcDelta_eq {size b : Nat} {delta : Int} (hb : b < 2 ^ size) (hzero : size = 0 → delta = 0)
    (hhigh : size ≠ 0 → 2 ^ (size - 1) ≤ b → delta = b)
    (hlow : size ≠ 0 → b < 2 ^ (size - 1) → delta = (b : Int) - (2 ^ size - 1)) : dcDelta size b = delta := by
  unfold dcDelta
  split
  · rename_i h; exact (hzero h).symm
  · rename_i h
    by_cases hge : 2 ^ (size - 1) ≤ b
    · have htop : b.testBit (size - 1) = true :=
        Nat.testBit_of_two_pow_le_and_two_pow_add_one_gt hge (by rwa [Nat.sub_add_cancel (by omega)])
      rw [if_pos htop, hhigh h hge]
    · have htop : b.testBit (size - 1) = false := Nat.testBit_lt_two_pow (by omega)
      rw [if_neg (by simp [htop]), hlow h (by omega)]

/-- A row of the candidate adds four times its delta to the predictor of its channel (R106, R164, R166). -/
theorem dcRow_effect {luma : Bool} {e : DcEntry} (he : e ∈ dcTable luma) {v : Nat} (hv : v < 2 ^ e.size) {delta : Int}
    (s : State) (hzero : e.size = 0 → delta = 0) (hhigh : e.size ≠ 0 → 2 ^ (e.size - 1) ≤ v → delta = v)
    (hlow : e.size ≠ 0 → v < 2 ^ (e.size - 1) → delta = (v : Int) - (2 ^ e.size - 1)) :
    ∃ t, exec (e.instr v) s = .next t
      ∧ DcEffect s t (e.codeLen :: if e.size = 0 then [] else [e.size])
          ((startPred s).get (dcChannel luma s) + 4 * delta)
          ((startPred s).set (dcChannel luma s) ((startPred s).get (dcChannel luma s) + 4 * delta)) := by
  refine ⟨_, exec_dcRow he hv s, ?_⟩
  have heff := dcPredItem_effect (dcChannel luma s) e.codeLen e.size v s
  rwa [dcDelta_eq hv hzero hhigh hlow] at heff

theorem startPred_popHost (s : State) : startPred (popHost s) = startPred s := by simp [startPred]

/-- A word of another DC_CODE adds four times its delta to the predictor of the block's channel (R164, R166). -/
theorem dcWord_effect {s : State} (ht : EngineTurn s) (hp : s.phase = .segDecode) (hs : s.stage = .dcItem)
    (hf : s.hdr.flat = false) (hc : CursorOk s.mem s.cursor) (hl : s.cfg.dcCode.legal = true) {len : Nat} {delta : Int}
    (h : NextDcWord s (decide (s.channel = .y)) len delta) :
    ∃ t ws, PiecesOf len ws ∧ step s = .next t
      ∧ DcEffect (popHost s) t ws ((startPred s).get s.channel + 4 * delta)
          ((startPred s).set s.channel ((startPred s).get s.channel + 4 * delta)) := by
  obtain ⟨hpos, hstep⟩ := step_dcWord ht hp hs hf hc hl h
  have heff := dcPredict_effect s.channel delta (consumePieces len) (popHost s)
  rw [startPred_popHost] at heff
  exact ⟨_, _, consumePieces_pieces hpos, hstep, heff⟩

/-- Settles O12: the luma column, with the predictor of Y. -/
theorem lumaDcItems : Obligations.LumaDcItems := by
  unfold Obligations.LumaDcItems
  refine ⟨fun i hi => dcPred_cases (luma := true) hi, ?rows, ?words⟩
  case rows =>
    intro e he b hb delta s hzero hhigh hlow
    exact dcRow_effect (luma := true) he hb s hzero hhigh hlow
  case words =>
    intro s ht hp hs hf hc hl hy len delta hw
    have heff := dcWord_effect ht hp hs hf hc hl (len := len) (delta := delta) (by rwa [hy])
    rwa [hy] at heff

/-- Settles O13: the chroma column, with the predictor of the block's channel. -/
theorem chromaDcItems : Obligations.ChromaDcItems := by
  unfold Obligations.ChromaDcItems
  refine ⟨fun i hi => dcPred_cases (luma := false) hi, ?rows, ?words⟩
  case rows =>
    intro e he b hb delta s hzero hhigh hlow
    have heff := dcRow_effect (luma := false) he hb s hzero hhigh hlow
    simp only [dcChannel, Bool.false_eq_true, if_false] at heff
    refine ⟨fun hch => ?_, fun hch => ?_, fun hch => ?_⟩ <;> rwa [hch] at heff
  case words =>
    intro s ht hp hs hf hc hl len delta hw
    refine ⟨fun hch => ?_, fun hch => ?_⟩
    all_goals
      have heff := dcWord_effect ht hp hs hf hc hl (len := len) (delta := delta) (by rwa [hch])
      rwa [hch] at heff

/-! The mismatches (O28, O29). -/

/-- A word that does not stand at BITPOS does not begin the bits that the decoder gets. -/
theorem lookahead_noPrefix {s : State} (hc : CursorOk s.mem s.cursor) {w : List Bool}
    (h : ¬ StreamBegins s.mem s.cursor w) : w.isPrefixOf (lookahead s) = false := by
  rw [lookahead_eq hc, Bool.eq_false_iff]
  intro hp
  apply h
  rw [eq_nextBits_of_prefix s hp]
  exact nextBits_begins s _

/-- A word at BITPOS begins the bits that the decoder gets. -/
theorem lookahead_prefix {s : State} (hc : CursorOk s.mem s.cursor) {w : List Bool}
    (h : StreamBegins s.mem s.cursor w) (hl : w.length ≤ 48) : w.isPrefixOf (lookahead s) = true := by
  have hwin := lookaheadBlocks_ge s
  obtain ⟨rest, hrest⟩ := lookahead_append hc h (by omega)
  rw [hrest]
  exact isPrefixOf_append_self w rest

/-- END_INFO of a mismatch in the current block (R35). -/
theorem mismatchInfo_popHost (s : State) : mismatchInfo (popHost s).blk (popHost s).mb =
    BitVec.ofNat 32 (s.blk * 65536 + s.mb % 65536) := by rw [mismatchInfo, popHost_blk, popHost_mb]

theorem step_acMismatch {s : State} (ht : EngineTurn s) (hp : s.phase = .segDecode) (hs : s.stage = .acItem)
    (hd : decodeAc s.cfg.acCode (lookahead s) = .reject .acMismatch) : step s = .next (vlcMismatch (popHost s)) := by
  simp [step, fetch_engineTurn ht, fetchEngine, hp, hs, fetchDecode, decode, hd, Decoded.fetched, runEngineStep]

theorem step_dcMismatch {s : State} (ht : EngineTurn s) (hp : s.phase = .segDecode) (hs : s.stage = .dcItem)
    (hf : s.hdr.flat = false)
    (hd : decodeDcPred s.cfg.dcCode (decide (s.channel = .y)) (lookahead s) = .reject .dcMismatch) :
    step s = .next (vlcMismatch (blockStart (popHost s))) := by
  rw [← decode_dcPred, ← dcContext_pred hf] at hd
  simp [step, fetch_engineTurn ht, fetchEngine, hp, hs, fetchDecode, hd, Decoded.fetched, runEngineStep]

/-- Settles O28: the bits begin with no code, so the decoder rejects them. -/
theorem acMismatchStep : Obligations.AcMismatchStep := by
  unfold Obligations.AcMismatchStep
  intro s ht hp hs hc hno
  have hd : decodeAc s.cfg.acCode (lookahead s) = .reject .acMismatch := by
    rcases hno with ⟨ha, hb⟩ | ⟨rows, eob, esc, ha, hno⟩ <;> rw [ha]
    · exact decodeAc_spec_noCode (no_prefix_of_unused acCodes_unused_prefixFree (lookahead_prefix hc hb (by decide)))
    · exact decodeAc_table_noCode fun code hcode => lookahead_noPrefix hc (hno code hcode)
  rw [step_acMismatch ht hp hs hd, vlcMismatch, mismatchInfo_popHost]

/-- Settles O29: the bits begin with no word of the block's code, so the decoder rejects them after the block's start. -/
theorem dcMismatchStep : Obligations.DcMismatchStep := by
  unfold Obligations.DcMismatchStep
  intro s ht hp hs hf hc hno
  have hd : decodeDcPred s.cfg.dcCode (decide (s.channel = .y)) (lookahead s) = .reject .dcMismatch := by
    rcases hno with ⟨ha, hb⟩ | ⟨ha, hno⟩
    · rw [ha]
      refine decodeDcPred_candidate_unused (lookahead_prefix hc ?_ ?_)
      · simpa [dcUnused] using hb
      · simp only [dcUnused, List.length_replicate]; split <;> decide
    · exact decodeDcPred_noWord hc ha hno
  rw [step_dcMismatch ht hp hs hf hd, ← mismatchInfo_popHost, ← startPred_popHost, ← blockStart_startPred]
  rfl

/-! The segment header (O26). -/

/-- The header's bytes that the engine reads at `a`, all 8 of them (R114). -/
theorem decodeSegHdr_bytes (c : Config) (m : Memory) (a : Nat) : decodeSegHdr c (m.bytes a 8) =
    if half m (a + 2) = c.segTypeId ∧ half m (a + 6) ∈ c.validVersions then
      .ok (.segHdr (half m a) (half m (a + 2)) (half m (a + 4)) (half m (a + 6)))
    else .reject .formatMismatch := by
  have hfield : ∀ k, k + 2 ≤ 8 → BitVec.ofNat 16 (byteField (m.bytes a 8) k 2) = half m (a + k) := fun k hk => by
    rw [byteField_bytes m a 8 k 2 hk, half_eq]
  simp only [decodeSegHdr, hfield 0 (by decide), hfield 2 (by decide), hfield 4 (by decide), hfield 6 (by decide),
    bytes_length, le_refl, true_and, Nat.add_zero, List.contains_eq_mem, decide_eq_true_eq]

/-- Fewer bytes are no header (R293). -/
theorem decodeSegHdr_short (c : Config) {b : List Byte} (h : b.length < 8) :
    decodeSegHdr c b = .reject .formatMismatch := if_neg fun hb => absurd hb.1 (by omega)

/-- In SEG_HDR with bytes left the step does what the decoder answers on up to 8 of them (R293). -/
theorem fetch_segHdr {s : State} (ht : EngineTurn s) (hp : s.phase = .segHdr) (hcur : s.cur < s.inLen.toNat) :
    fetch s = Decoded.fetched .formatMismatch
      (decodeSegHdr s.cfg (s.mem.bytes s.cur (min 8 (s.inLen.toNat - s.cur)))) := by
  rw [fetch_engineTurn ht, fetchEngine, hp]
  exact if_neg (Nat.not_le.2 hcur)

/-- Settles O26: the bound checks, then the decoder's own on the four fields at CUR. -/
theorem segmentHeaderStep : Obligations.SegmentHeaderStep := by
  unfold Obligations.SegmentHeaderStep
  intro s ht hp
  have hfull : s.cur + 8 ≤ s.inLen.toNat → fetch s = Decoded.fetched .formatMismatch
      (decodeSegHdr s.cfg (s.mem.bytes s.cur 8)) := fun h => by
    rw [fetch_segHdr ht hp (by omega), Nat.min_eq_left (by omega)]
  refine ⟨fun hend => ?ended, fun hcur hshort => ?short, fun h8 hbad => ?bad, fun h8 htype hversion => ?valid⟩
  case ended =>
    have hfetch : fetch s = .engine .endOfInput := by
      rw [fetch_engineTurn ht, fetchEngine, hp]
      exact if_pos hend
    rw [step, hfetch]; rfl
  case short =>
    rw [step, fetch_segHdr ht hp hcur, decodeSegHdr_short _ (by simp; omega)]; rfl
  case bad =>
    rw [step, hfull h8, decodeSegHdr_bytes, if_neg (by tauto)]; rfl
  case valid =>
    rw [step, hfull h8, decodeSegHdr_bytes, if_pos ⟨htype, hversion⟩]; rfl

end Sys2Proof.Machine
end

section
/-! PROOFS. The bit cursor: what its operations do to the registers (O44 CursorOperations), the bits that GetBits reads
(O45 GetBitsReadTheStream), and its start in a segment (O27 SegmentInitStep). -/

namespace Sys2Proof.Machine

/-! The stream bits, byte by byte. -/

/-- Bits 15:8 of a source word are the bits of its second byte, bits 7:0 those of its first (R141). -/
theorem srcWord_testBit (m : Memory) (base srcEnd i j : Nat) :
    (srcWord m base srcEnd i).testBit j =
      if j < 8 then (srcByte m srcEnd (base + 2 * i)).testBit j
      else (srcByte m srcEnd (base + 2 * i + 1)).testBit (j - 8) := by
  rw [srcWord, Nat.add_comm, show (256 : Nat) = 2 ^ 8 from rfl,
    Nat.testBit_two_pow_mul_add _ (srcByte_lt m srcEnd (base + 2 * i))]

/-- StreamBit(p) is bit 7 - p mod 8 of the source byte at ByteOfBit(p) (R148). -/
theorem streamBit_eq_srcByte (m : Memory) (base srcEnd p : Nat) :
    streamBit m base srcEnd p = (srcByte m srcEnd (byteOfBit base p)).testBit (7 - p % 8) := by
  rw [streamBit, srcWord_testBit, byteOfBit]
  by_cases hhigh : p % 16 < 8
  · have hbit : 15 - p % 16 - 8 = 7 - p % 8 := by omega
    rw [if_neg (by omega), if_pos hhigh, hbit]
  · have hbit : 15 - p % 16 = 7 - p % 8 := by omega
    rw [if_pos (by omega), if_neg hhigh, hbit, Nat.add_zero]

theorem srcByte_before_end (m : Memory) {srcEnd a : Nat} (h : a < srcEnd) : srcByte m srcEnd a = (m.read a).toNat :=
  if_pos h

theorem srcByte_past_end (m : Memory) {srcEnd a : Nat} (h : srcEnd ≤ a) : srcByte m srcEnd a = 0 :=
  if_neg (Nat.not_lt.2 h)

/-! GetBits (R144). -/

/-- The value of Peek(n), as bits, is the next n stream bits (R147). -/
theorem natBits_peek {m : Memory} {c : Cursor} (h : CursorOk m c) {n : Nat} (hn : n ≤ 17) :
    natBits n (c.peek n) = (List.range n).map fun j => streamBit m c.srcBase c.srcEnd (c.bitpos + j) := by
  refine List.ext_getElem (by simp) fun j hj _ => ?_
  rw [natBits_getElem, peek_testBit h hn (by simpa using hj)]
  simp

/-- Each GetBits leaves a cursor in its invariant, which reads on where the one before it stopped. -/
theorem getBitsAll_eq (m : Memory) : ∀ (widths : List Nat) (c : Cursor), CursorOk m c → (∀ n ∈ widths, n ≤ 16) →
    getBitsAll m c widths =
      (List.range widths.sum).map fun j => streamBit m c.srcBase c.srcEnd (c.bitpos + j)
  | [], _, _, _ => rfl
  | n :: widths, c, hc, hw => by
    obtain ⟨hn, hrest⟩ := List.forall_mem_cons.1 hw
    rw [getBitsAll, natBits_peek hc (by omega), getBitsAll_eq m widths _ (advance_ok hc hn) hrest, List.sum_cons,
      List.range_add, List.map_append]
    simp [Function.comp_def, Nat.add_assoc]

/-- Settles O45: the cursor starts in its invariant at bit 0, and every GetBits reads on from there. -/
theorem getBitsReadTheStream : Obligations.GetBitsReadTheStream := by
  unfold Obligations.GetBitsReadTheStream
  refine fun m base srcEnd => ⟨fun widths hw => ?values, fun p => ⟨rfl, fun hin => ?inside, fun hpast => ?past⟩⟩
  case values =>
    rw [getBitsAll_eq m widths _ (init_ok m base srcEnd) fun n hn => (hw n hn).2]
    simp [Cursor.init]
  case inside => rw [streamBit_eq_srcByte, srcByte_before_end m hin, BitVec.testBit_toNat]
  case past => rw [streamBit_eq_srcByte, srcByte_past_end m hpast, Nat.zero_testBit]

/-! The registers (O44). -/

theorem peek_eq_div (c : Cursor) (n : Nat) : c.peek n = c.sr.toNat / 2 ^ (32 - n) := by
  rw [Cursor.peek, BitVec.toNat_ushiftRight, Nat.shiftRight_eq_div_pow]

/-- Consume(n) while bits are left beyond the 16 of the window needs no refill (R142). -/
theorem advance_noRefill (m : Memory) {c : Cursor} {n : Nat} (h : 0 < c.avail - n) :
    c.advance m n = { c with sr := c.sr <<< n, avail := c.avail - n, bitpos := c.bitpos + n } :=
  if_neg (Int.not_le.2 h)

/-- Consume(n) that takes AVAIL to 0 or below refills (R142, R146). -/
theorem advance_refill (m : Memory) {c : Cursor} {n : Nat} (h : c.avail - n ≤ 0) :
    c.advance m n = { c with
      sr := (c.sr <<< n)
        ||| (BitVec.ofNat 32 (srcWord m c.srcBase c.srcEnd ((c.wptr - c.srcBase) / 2)) <<< (n - c.avail).toNat)
      avail := c.avail - n + 16
      wptr := c.wptr + 2
      bitpos := c.bitpos + n } := by
  rw [← Int.neg_sub c.avail n]
  exact if_pos h

/-- Settles O44: Consume has the two cases of its refill. -/
theorem cursorOperations : Obligations.CursorOperations := by
  unfold Obligations.CursorOperations
  exact ⟨fun _ _ _ => rfl, fun _ _ _ _ => rfl,
    fun m c n _ _ => ⟨peek_eq_div c n, fun _ h => advance_noRefill m h, fun _ h => advance_refill m h⟩⟩

/-! The segment's start (O27). -/

/-- On the engine's turn, an engine step that is fetched runs. -/
theorem step_engineStep {s : State} {e : EngineStep} (ht : EngineTurn s) (hf : fetchEngine s = .engine e) :
    step s = .next (runEngineStep e (popHost s)) := by
  rw [step, fetch_engineTurn ht, hf]

/-- Settles O27: the engine step fetched in the first stage of SEG_DECODE is segmentInit. -/
theorem segmentInitStep : Obligations.SegmentInitStep := by
  unfold Obligations.SegmentInitStep
  intro s ht hp hs
  have hfetch : fetchEngine s = .engine .segmentInit := by rw [fetchEngine, hp]; simp only [fetchDecode, hs]
  rw [step_engineStep ht hfetch, ← popHost_mem s, ← popHost_cur s, ← popHost_inLen s, ← popHost_cfg s]
  rfl

end Sys2Proof.Machine
end

section
/-! PROOFS. The block reconstructor: dequantisation and level shift (O34 DequantAndLevelShift), the scatter by ZIGZAG
(O35 ZigzagScatter), the two passes of the inverse DCT (O36 InverseDctPasses), the blocks with a DC term alone (O37
DcOnlyBlockIsFlat), and the step that writes a block (O30 BlockReconstructStep). -/

namespace Sys2Proof.Machine

/-- The entry at a place of a list that is computed place by place. -/
theorem getD_map_range {α : Type} (g : Nat → α) (d : α) {n i : Nat} (h : i < n) :
    ((List.range n).map g).getD i d = g i := by
  rw [List.getD_eq_getElem _ _ (by simpa using h)]
  simp

/-! Dequantisation and the level shift (O34). -/

/-- A product with natural factors, divided toward zero: they go into the magnitude, the sign is the first factor's. -/
theorem mul_mul_tdiv (a : Int) (m q n : Nat) :
    Int.tdiv (a * m * q) n = a.sign * ((a.natAbs * m * q / n : Nat) : Int) := by
  have hnat : ∀ k : Nat, Int.tdiv (k * m * q) n = (k : Int).sign * ((k * m * q / n : Nat) : Int) := by
    intro k
    rcases Nat.eq_zero_or_pos k with rfl | hk
    · simp
    · rw [Int.sign_eq_one_of_pos (Int.natCast_pos.2 hk), one_mul]
      rfl
  obtain ⟨k, rfl | rfl⟩ := Int.eq_nat_or_neg a
  · rw [Int.natAbs_natCast, hnat]
  · rw [Int.natAbs_neg, Int.natAbs_natCast, Int.sign_neg, neg_mul, neg_mul, neg_mul, Int.neg_tdiv, hnat]

/-- DequantDC is the decided product, clamped (R220). -/
theorem dequantDc_spec {c : Config} (h : c.dequant = .spec) (level : Int) :
    dequantDc c level = clamp (level * (c.qmatrix.getD 0 0 : Nat)) (-2048) 2047 := by
  simp only [dequantDc, h]

/-- DequantAC is the decided quotient, clamped (R221). -/
theorem dequantAc_spec {c : Config} (h : c.dequant = .spec) (qtag : Half) (k : Nat) (level : Int) :
    dequantAc c qtag k level =
      clamp (level.sign * ((level.natAbs * qtag.toNat * c.qmatrix.getD k 0 / 8 : Nat) : Int)) (-2048) 2047 := by
  simp only [dequantAc, h]
  rw [← mul_mul_tdiv, Nat.cast_ofNat]

/-- A luma sample is moved up by 128 and clamped (R226). -/
theorem shiftLuma_spec {c : Config} (h : c.levelShift = .spec) (f : Int) : shiftLuma c f = clamp (f + 128) 0 255 := by
  simp only [shiftLuma, h]

/-- A chroma sample is clamped (R227). -/
theorem shiftChroma_spec {c : Config} (h : c.levelShift = .spec) (f : Int) :
    shiftChroma c f = clamp f (-128) 127 := by
  simp only [shiftChroma, h]

/-- Settles O34: each of the four is one clamp, and a clamp is a maximum of a minimum. -/
theorem dequantAndLevelShift : Obligations.DequantAndLevelShift := by
  unfold Obligations.DequantAndLevelShift
  refine fun c qtag => ⟨fun hd => ⟨fun level => ?dc, fun k level _ _ => ?ac⟩,
    fun hs f => ⟨?luma, ?chroma, ?chroma⟩⟩
  case dc => rw [dequantDc_spec hd, clamp_eq _ _ _ (by decide)]
  case ac => rw [dequantAc_spec hd, clamp_eq _ _ _ (by decide)]
  case luma => rw [← clamp_eq _ _ _ (by decide)]; exact shiftLuma_spec hs f
  case chroma => rw [← clamp_eq _ _ _ (by decide)]; exact shiftChroma_spec hs f

/-! The dequantised terms and their scatter (O35). -/

@[simp] theorem dequantBlock_length (c : Config) (qtag : Half) (level : List Int) :
    (dequantBlock c qtag level).length = 64 := by simp [dequantBlock]

@[simp] theorem dequantBlock_zero (c : Config) (qtag : Half) (level : List Int) :
    (dequantBlock c qtag level).getD 0 0 = dequantDc c (level.getD 0 0) :=
  getD_map_range _ _ (by decide)

theorem dequantBlock_pos (c : Config) (qtag : Half) (level : List Int) {k : Nat} (h1 : 1 ≤ k) (h : k < 64) :
    (dequantBlock c qtag level).getD k 0 = dequantAc c qtag k (level.getD k 0) :=
  (getD_map_range _ _ h).trans (if_neg (by omega))

/-- Every term is clamped to a signed 12-bit value, whatever DEQUANT is (R220, R221). -/
theorem dequantBlock_range (c : Config) (qtag : Half) (level : List Int) :
    ∀ v ∈ dequantBlock c qtag level, -2048 ≤ v ∧ v ≤ 2047 := by
  intro v hv
  obtain ⟨k, -, rfl⟩ := List.mem_map.1 hv
  split
  · exact clamp_range _ _ _ (by decide)
  · exact clamp_range _ _ _ (by decide)

@[simp] theorem deZigzag_length (c : Config) (rec : List Int) : (deZigzag c rec).length = 64 := by
  rw [deZigzag, deZigzagFrom_length, List.length_replicate]

/-- The term of position k ends at the place that the order names there, when no later position names it too. -/
theorem deZigzagFrom_at : ∀ (o : List Nat) (r f : List Int) (k : Nat), k < o.length → o.length = r.length →
    (∀ p ∈ o, p < f.length) → (∀ j, k < j → j < o.length → o.getD j 0 ≠ o.getD k 0) →
    (deZigzagFrom o r f).getD (o.getD k 0) 0 = r.getD k 0
  | p :: o, v :: r, f, 0, _, _, hin, hlast => by
    have hp : p < f.length := hin p List.mem_cons_self
    have hnot : p ∉ o := fun hmem => by
      obtain ⟨j, hj, hpj⟩ := List.getElem_of_mem hmem
      refine hlast (j + 1) (by omega) (by simpa using hj) ?_
      simpa [hj] using hpj
    rw [List.getD_cons_zero, List.getD_cons_zero, deZigzagFrom, deZigzagFrom_other o r _ p hnot]
    simp [List.getD_eq_getElem?_getD, hp]
  | p :: o, v :: r, f, k + 1, hk, hlen, hin, hlast => by
    rw [List.getD_cons_succ, List.getD_cons_succ, deZigzagFrom]
    refine deZigzagFrom_at o r _ k (by simpa using hk) (by simpa using hlen) (fun q hq => ?_) fun j hkj hj => ?_
    · simpa using hin q (List.mem_cons_of_mem _ hq)
    · simpa using hlast (j + 1) (by omega) (by simpa using hj)

/-- A legal ZIGZAG names no raster index twice. -/
theorem zigzag_nodup_of_legal {c : Config} (h : c.legal = true) : c.zigzag.Nodup := by
  simp only [Config.legal, Bool.and_eq_true, decide_eq_true_eq] at h
  tauto

/-- In a list without repeats two places hold different entries. -/
theorem getD_ne_of_nodup {l : List Nat} (h : l.Nodup) {j k : Nat} (hkj : k < j) (hj : j < l.length) :
    l.getD j 0 ≠ l.getD k 0 := by
  rw [List.getD_eq_getElem _ _ hj, List.getD_eq_getElem _ _ (hkj.trans hj)]
  exact fun e => hkj.ne' ((h.getElem_inj_iff).1 e)

/-- Settles O35: the last position that names a raster index leaves its term there. -/
theorem zigzagScatter : Obligations.ZigzagScatter := by
  unfold Obligations.ZigzagScatter
  refine fun c hlen hin => ⟨fun rec hrec => ⟨deZigzag_length c rec, fun k hk hlast => ?scatter⟩, fun qtag level =>
    ⟨dequantBlock_length c qtag level, dequantBlock_range c qtag level, dequantBlock_zero c qtag level,
      fun k => dequantBlock_pos c qtag level⟩⟩
  case scatter =>
    refine deZigzagFrom_at _ _ _ k (by omega) (by omega) (by simpa using hin) fun j hkj hj => ?_
    rcases hlast with hlegal | hlater
    · exact getD_ne_of_nodup (zigzag_nodup_of_legal hlegal) hkj hj
    · exact hlater j hkj (by omega)

/-! The inverse DCT (O36). -/

@[simp] theorem slice8_length (f : List Int) (start stride : Nat) : (slice8 f start stride).length = 8 := by
  simp [slice8]

@[simp] theorem rowPass_length (c : Config) (f : List Int) : (rowPass c f).length = 64 := by simp [rowPass]

@[simp] theorem columnPass_length (c : Config) (t : List Int) : (columnPass c t).length = 64 := by simp [columnPass]

/-- The row pass transforms each row (R224). -/
theorem rowPass_getD (c : Config) (f : List Int) {v x : Nat} (hv : v < 8) (hx : x < 8) :
    (rowPass c f).getD (8 * v + x) 0 = idct1d c (slice8 f (8 * v) 1) x := by
  have hrow : (8 * v + x) / 8 = v := by omega
  have hcol : (8 * v + x) % 8 = x := by omega
  rw [rowPass, getD_map_range _ _ (by omega), hrow, hcol]

/-- The column pass transforms each column (R224). -/
theorem columnPass_getD (c : Config) (t : List Int) {y x : Nat} (hy : y < 8) (hx : x < 8) :
    (columnPass c t).getD (8 * y + x) 0 = idct1d c (slice8 t x 8) y := by
  have hrow : (8 * y + x) / 8 = y := by omega
  have hcol : (8 * y + x) % 8 = x := by omega
  rw [columnPass, getD_map_range _ _ (by omega), hrow, hcol]

theorem idctMatrix_row_length : ∀ x, x < 8 → (idctMatrix.getD x []).length = 8 := by decide

/-- The decided IDCT_1D: a row of the matrix, rounded by half of 4096 (R225). -/
theorem idct1d_spec {c : Config} (h : c.idct = .spec) (xs : List Int) (x : Nat) :
    idct1d c xs x = (dot (idctMatrix.getD x []) xs + 2048) / 4096 := by
  simp only [idct1d, h]
  rfl

/-- The decided IDCT_1D of eight entries of a block, as a sum (R225). -/
theorem idct1d_slice8 {c : Config} (h : c.idct = .spec) (f : List Int) (start stride : Nat) {x : Nat} (hx : x < 8) :
    idct1d c (slice8 f start stride) x =
      (((List.range 8).map fun u => (idctMatrix.getD x []).getD u 0 * f.getD (start + stride * u) 0).sum + 2048)
        / 4096 := by
  have hterms : ((List.range 8).map fun u => (idctMatrix.getD x []).getD u 0 * (slice8 f start stride).getD u 0) =
      (List.range 8).map fun u => (idctMatrix.getD x []).getD u 0 * f.getD (start + stride * u) 0 :=
    List.map_congr_left fun u hu => by rw [slice8_getD f start stride u (List.mem_range.1 hu)]
  rw [idct1d_spec h, dot_eight _ _ (idctMatrix_row_length x hx) (slice8_length f start stride), hterms]

/-- Settles O36: the intermediate is the row pass. -/
theorem inverseDctPasses : Obligations.InverseDctPasses := by
  unfold Obligations.InverseDctPasses
  refine ⟨rfl, fun c f h => ⟨rowPass c f, rowPass_length c f, columnPass_length c _, ?rows, ?columns⟩⟩
  case rows =>
    intro v x hv hx
    simp only [rowPass_getD c f hv hx, idct1d_slice8 h _ _ _ hx, Nat.one_mul]
  case columns =>
    intro y x hy hx
    simp only [idct2d, columnPass_getD c _ hy hx, idct1d_slice8 h _ _ _ hy, Nat.add_comm x]

/-! A block with a DC term alone (O37). -/

/-- A list with zeros after its first entry, from its entries. -/
theorem eq_cons_zeros {l : List Int} {d : Int} {n : Nat} (hlen : l.length = n + 1) (h0 : l.getD 0 0 = d)
    (hrest : ∀ u, u < n → l.getD (u + 1) 0 = 0) : l = d :: List.replicate n 0 := by
  cases l with
  | nil => simp at hlen
  | cons a l =>
    obtain rfl : a = d := h0
    refine congrArg _ (List.ext_getElem (by simpa using hlen) fun u hu _ => ?_)
    rw [List.getElem_replicate, ← List.getD_eq_getElem _ 0 hu]
    exact hrest u (by simp at hlen; omega)

@[simp] theorem cons_zeros_getD_succ (d : Int) (n u : Nat) : (d :: List.replicate n 0).getD (u + 1) 0 = 0 := by
  rw [List.getD_cons_succ, List.getD_eq_getElem?_getD, List.getElem?_getD_replicate_default_eq]

/-- The decided DEQUANT takes a level of 0 to 0 (R221). -/
theorem dequantAc_zero {c : Config} (h : c.dequant = .spec) (qtag : Half) (k : Nat) : dequantAc c qtag k 0 = 0 := by
  rw [dequantAc_spec h, Int.sign_zero, zero_mul]
  rfl

/-- Without AC levels the decided DEQUANT leaves the DC term alone. -/
theorem dequantBlock_dcOnly {c : Config} (h : c.dequant = .spec) (qtag : Half) (dc : Int) :
    dequantBlock c qtag (dc :: List.replicate 63 0) = dequantDc c dc :: List.replicate 63 0 := by
  refine eq_cons_zeros (dequantBlock_length _ _ _) (dequantBlock_zero _ _ _) fun u hu => ?_
  rw [dequantBlock_pos c qtag _ (by omega) (by omega), cons_zeros_getD_succ, dequantAc_zero h]

/-- Zero terms that are put at other places than 0 leave a DC term alone. -/
theorem deZigzagFrom_zeros (d : Int) (m : Nat) : ∀ (o : List Nat) (n : Nat), 0 ∉ o →
    deZigzagFrom o (List.replicate n 0) (d :: List.replicate m 0) = d :: List.replicate m 0
  | [], _, _ => by simp [deZigzagFrom]
  | _ :: _, 0, _ => by simp [deZigzagFrom]
  | 0 :: _, _ + 1, h => absurd List.mem_cons_self h
  | (p + 1) :: o, n + 1, h => by
    rw [List.replicate_succ, deZigzagFrom, List.set_cons_succ, List.set_replicate_self]
    exact deZigzagFrom_zeros d m o n fun hmem => h (List.mem_cons_of_mem _ hmem)

/-- The standard zig-zag begins at raster index 0 and does not come back there, so a DC term stays first. -/
theorem deZigzag_dcOnly {c : Config} (h : c.zigzag = zigzagTable) (d : Int) :
    deZigzag c (d :: List.replicate 63 0) = d :: List.replicate 63 0 := by
  have hfirst : zigzagTable = 0 :: zigzagTable.tail := rfl
  have hset : (List.replicate 64 (0 : Int)).set 0 d = d :: List.replicate 63 0 := rfl
  rw [deZigzag, h, hfirst, deZigzagFrom, hset]
  exact deZigzagFrom_zeros d 63 _ 63 (by decide)

theorem dot_zeros : ∀ (a : List Int) (n : Nat), dot a (List.replicate n 0) = 0
  | [], _ => by simp [dot]
  | _ :: _, 0 => by simp [dot]
  | _ :: a, n + 1 => by rw [List.replicate_succ, dot, dot_zeros a n, mul_zero, add_zero]

theorem idctMatrix_row_head : ∀ x, x < 8 → idctMatrix.getD x [] = 1448 :: (idctMatrix.getD x []).tail := by decide

/-- The first column of the matrix is constant, so the first term alone gives the same value everywhere (R225, R232). -/
theorem idct1d_dcOnly {c : Config} (h : c.idct = .spec) (d : Int) {x : Nat} (hx : x < 8) :
    idct1d c (d :: List.replicate 7 0) x = (1448 * d + 2048) / 4096 := by
  rw [idct1d_spec h, idctMatrix_row_head x hx, dot, dot_zeros, add_zero]

theorem slice8_dcOnly {f : List Int} {start stride : Nat} {d : Int} (h0 : f.getD start 0 = d)
    (hrest : ∀ u, u < 7 → f.getD (start + stride * (u + 1)) 0 = 0) :
    slice8 f start stride = d :: List.replicate 7 0 := by
  refine eq_cons_zeros (slice8_length _ _ _) ?_ fun u hu => ?_
  · rw [slice8_getD _ _ _ _ (by decide)]
    exact h0
  · rw [slice8_getD _ _ _ _ (by omega)]
    exact hrest u hu

/-- The row pass of a DC term alone: its row is constant, the others are zero. -/
theorem rowPass_dcOnly {c : Config} (h : c.idct = .spec) (d : Int) {v x : Nat} (hv : v < 8) (hx : x < 8) :
    (rowPass c (d :: List.replicate 63 0)).getD (8 * v + x) 0 = if v = 0 then (1448 * d + 2048) / 4096 else 0 := by
  have hslice : slice8 (d :: List.replicate 63 0) (8 * v) 1 = (if v = 0 then d else 0) :: List.replicate 7 0 := by
    refine slice8_dcOnly ?_ fun u hu => ?_
    · cases v with
      | zero => rfl
      | succ v => exact cons_zeros_getD_succ d 63 (8 * v + 7)
    · rw [Nat.one_mul, ← Nat.add_assoc, cons_zeros_getD_succ]
  rw [rowPass_getD c _ hv hx, hslice, idct1d_dcOnly h _ hx]
  split <;> rfl

/-- IDCT2D of a DC term alone is flat (R232). -/
theorem idct2d_dcOnly {c : Config} (h : c.idct = .spec) (d : Int) :
    idct2d c (d :: List.replicate 63 0) =
      List.replicate 64 ((1448 * ((1448 * d + 2048) / 4096) + 2048) / 4096) := by
  refine List.eq_replicate_iff.2 ⟨columnPass_length c _, fun b hb => ?_⟩
  obtain ⟨i, hi, rfl⟩ := List.mem_map.1 hb
  have hi64 : i < 64 := List.mem_range.1 hi
  have hcolumn : slice8 (rowPass c (d :: List.replicate 63 0)) (i % 8) 8 =
      (1448 * d + 2048) / 4096 :: List.replicate 7 0 := by
    refine slice8_dcOnly ?_ fun u hu => ?_
    · simpa using rowPass_dcOnly h d (v := 0) (x := i % 8) (by decide) (by omega)
    · rw [Nat.add_comm, rowPass_dcOnly h d (by omega) (by omega), if_neg (by omega)]
  rw [hcolumn, idct1d_dcOnly h _ (by omega)]

/-- Settles O37: the DC term alone goes through dequantisation and scatter, and each pass makes it flat. -/
theorem dcOnlyBlockIsFlat : Obligations.DcOnlyBlockIsFlat := by
  unfold Obligations.DcOnlyBlockIsFlat
  rintro c qtag dc hdequant hidct hzigzag d0 f hd0 rfl
  obtain ⟨hlow, hhigh⟩ : -2048 ≤ d0 ∧ d0 ≤ 2047 := hd0 ▸ clamp_range _ _ _ (by decide)
  refine ⟨?flat, by omega, by omega⟩
  rw [dequantBlock_dcOnly hdequant, deZigzag_dcOnly hzigzag, idct2d_dcOnly hidct, hd0]

/-! The step that writes a block (O30). -/

/-- The samples that Reconstruct writes lie in the channel's range, those of a marked block too (R44, R234). -/
theorem reconstructed_samplesOk (s : State) : samplesOk s.channel
    (if s.poisoned then drawBlock s.channel s.draws else blockSamples s.cfg s.channel s.qtag s.level) := by
  split
  · exact drawBlock_samplesOk _ _
  · exact blockSamples_samplesOk _ _ _ _

/-- In SEG_DECODE the stage says what is next (R292). -/
theorem fetchEngine_segDecode {s : State} (hp : s.phase = .segDecode) : fetchEngine s = fetchDecode s := by
  rw [fetchEngine, hp]

@[simp] theorem popHost_role (s : State) : (popHost s).role = s.role := by simp [State.role]

@[simp] theorem popHost_channel (s : State) : (popHost s).channel = s.channel := by simp [State.channel]

/-- Reconstruct does not depend on the host's turn. -/
theorem reconstructStep_popHost (s : State) : reconstructStep (popHost s) = { popHost s with
    bpix := s.bpix.set s.role
      (if s.poisoned then drawBlock s.channel s.draws else blockSamples s.cfg s.channel s.qtag s.level)
    draws := if s.poisoned then s.draws + 64 else s.draws
    blk := if s.blk < 5 then s.blk + 1 else s.blk
    stage := if s.blk < 5 then .dcItem else .mergePlace } := by
  simp only [reconstructStep, reconstructBlock, popHost_bpix, popHost_role, popHost_channel, popHost_poisoned,
    popHost_draws, popHost_cfg, popHost_qtag, popHost_level, popHost_blk]

/-- Settles O30: the engine step of this stage, with the dequantised terms as rec. -/
theorem blockReconstructStep : Obligations.BlockReconstructStep := by
  unfold Obligations.BlockReconstructStep
  intro s ht hp hs
  have hfetch : fetchEngine s = .engine .reconstruct := by rw [fetchEngine_segDecode hp, fetchDecode, hs]
  refine ⟨_, if s.poisoned then s.draws + 64 else s.draws, reconstructed_samplesOk s,
    fun hclean => ⟨?drawn, ?terms⟩, ?next⟩
  case next =>
    rw [step_engineStep ht hfetch]
    exact congrArg _ (reconstructStep_popHost s)
  case drawn => rw [hclean]; rfl
  case terms =>
    refine ⟨dequantBlock s.cfg s.qtag s.level, dequantBlock_length _ _ _, dequantBlock_zero _ _ _,
      fun k => dequantBlock_pos _ _ _, ?_⟩
    rw [hclean]; rfl

end Sys2Proof.Machine
end

section
/-! PROOFS. From six blocks to the frame: colour and packing (O38 ColourAndPack), the tile (O39 TileMerge) and the step
that places it (O31 TileAndPlaceStep). -/

namespace Sys2Proof.Machine

/-! Colour and packing (O38). -/

/-- The colour conversion as maxima, minima and floor divisions (R10, R228). -/
theorem colourConvert_eq (k : ColorK) (y cb cr : Int) : colourConvert k y cb cr =
    (max 0 (min 255 (y + (k.kr * cr) / 4096)),
     max 0 (min 255 (y + (-(k.kgb * cb) - k.kgr * cr) / 4096)),
     max 0 (min 255 (y + (k.kb * cb) / 4096))) := by
  have hbounds : (0 : Int) ≤ 255 := by decide
  simp only [colourConvert, clamp_eq _ _ _ hbounds]
  rfl

/-- The packed word of a colour of three bytes (R229). -/
theorem packColour_spec {c : Config} (h : c.pack = .spec) {r g b : Nat} (hr : r < 256) (hg : g < 256) (hb : b < 256) :
    packColour c r g b = BitVec.ofNat 16 (r / 8 + 32 * (g / 8) + 1024 * (b / 8)) := by
  have hvalue : (r : Int) / 8 % 32 + 32 * ((g : Int) / 8 % 32) + 1024 * ((b : Int) / 8 % 32) =
      ((r / 8 + 32 * (g / 8) + 1024 * (b / 8) : Nat) : Int) := by omega
  simp only [packColour, h]
  rw [hvalue, BitVec.ofInt_natCast]

/-- A five-bit field of a word that a number below 2^15 fills. -/
theorem toNat_extractLsb'_ofNat {n : Nat} (start : Nat) (h : n < 32768) :
    ((BitVec.ofNat 16 n).extractLsb' start 5).toNat = n / 2 ^ start % 32 := by
  have hword : n % 2 ^ 16 = n := Nat.mod_eq_of_lt (by omega)
  rw [BitVec.extractLsb'_toNat, BitVec.toNat_ofNat, hword, Nat.shiftRight_eq_div_pow]

/-- Settles O38: the three fields of five bits are the digits of the packed number to base 32. -/
theorem colourAndPack : Obligations.ColourAndPack := by
  unfold Obligations.ColourAndPack
  refine ⟨colourConvert_eq, rfl, fun c r g b hpack hr hg hb => ?_⟩
  have hfits : r / 8 + 32 * (g / 8) + 1024 * (b / 8) < 32768 := by omega
  rw [packColour_spec hpack hr hg hb, toNat_extractLsb'_ofNat 0 hfits, toNat_extractLsb'_ofNat 5 hfits,
    toNat_extractLsb'_ofNat 10 hfits]
  refine ⟨by omega, by omega, by omega, ?top⟩
  case top =>
    rw [BitVec.getLsbD_ofNat, Nat.testBit_eq_false_of_lt hfits, Bool.and_false]

/-! The tile (O39, O31). -/

/-- The tile pixel at row y, column x. -/
theorem mergeTile_getD (c : Config) (b : BlockPixels) {y x : Nat} (hy : y < 16) (hx : x < 16) :
    (mergeTile c b).getD (16 * y + x) 0 = tilePixel c b y x := by
  have hrow : (16 * y + x) / 16 = y := by omega
  have hcol : (16 * y + x) % 16 = x := by omega
  rw [mergeTile, getD_map_range _ _ (by omega), hrow, hcol]

/-- The luma block of the quadrant (R230). -/
theorem get_quadrantRole (b : BlockPixels) (y x : Nat) : b.get (quadrantRole y x) =
    if y < 8 then if x < 8 then b.y0 else b.y1 else if x < 8 then b.y2 else b.y3 := by
  rw [quadrantRole]
  split <;> split <;> rfl

/-- Settles O39: each tile pixel by its row and column. -/
theorem tileMerge : Obligations.TileMerge := by
  unfold Obligations.TileMerge
  refine fun c b => ⟨mergeTile_length c b, ?_⟩
  rintro x y hx hy luma rgb rfl rfl
  rw [mergeTile_getD c b hy hx, ← get_quadrantRole]
  rfl

/-- Settles O31: the engine step of this stage does not depend on the host's turn. -/
theorem tileAndPlaceStep : Obligations.TileAndPlaceStep := by
  unfold Obligations.TileAndPlaceStep
  intro s ht hp hs
  have hfetch : fetchEngine s = .engine .mergePlace := by rw [fetchEngine_segDecode hp, fetchDecode, hs]
  rw [step_engineStep ht hfetch, runEngineStep]
  simp only [mergePlaceStep, mergePlaceTile, popHost_cfg, popHost_bpix, popHost_mb, popHost_frame, popHost_blk]

end Sys2Proof.Machine
end

section
/-! PROOFS. The frame assembler: the macroblock that covers a pixel (O41 FrameCoverage), the tile in its frame (O40
TilePlacement), the two images of a raw chunk (O16 RawChunkImages) and the bijection between their places (O42
ReorgPermutation). -/

namespace Sys2Proof.Machine

/-! Row-major places in rows of `w`. -/

theorem rowMajor_div {w x : Nat} (y : Nat) (hx : x < w) : (y * w + x) / w = y := by
  rw [Nat.add_comm, Nat.add_mul_div_right _ _ (by omega), Nat.div_eq_of_lt hx, Nat.zero_add]

theorem rowMajor_lt {w h x y : Nat} (hx : x < w) (hy : y < h) : y * w + x < w * h :=
  calc y * w + x < y * w + w := by omega
    _ = w * (y + 1) := by rw [Nat.mul_comm w, Nat.succ_mul]
    _ ≤ w * h := Nat.mul_le_mul_left w hy

/-! The macroblock of a pixel (O41). -/

/-- A macroblock covers the pixels of its own row and column of macroblocks (R260). -/
theorem inTile_iff {c : Config} {m x y : Nat} :
    inTile c m x y = true ↔ m / (c.frameW / 16) = y / 16 ∧ m % (c.frameW / 16) = x / 16 := by
  rw [inTile, decide_eq_true_iff, tileX, tileY]
  omega

/-- The macroblock that covers the pixel (x, y): MBW macroblocks for each row of macroblocks above it, and those on its
left (R261). -/
def coveringMb (c : Config) (x y : Nat) : Nat := y / 16 * (c.frameW / 16) + x / 16

/-- The macroblock that covers a pixel inside the frame's width, and no other, has the pixel in its tile. -/
theorem inTile_iff_eq_coveringMb {c : Config} {m x y : Nat} (hx : x / 16 < c.frameW / 16) :
    inTile c m x y = true ↔ m = coveringMb c x y := by
  rw [inTile_iff, coveringMb]
  constructor
  · rintro ⟨hrow, hcol⟩
    rw [← hrow, ← hcol, Nat.div_add_mod']
  · rintro rfl
    exact ⟨rowMajor_div _ hx, Nat.mul_add_mod_of_lt hx⟩

/-- Settles O41: the macroblock is the one at the pixel's row and column of macroblocks. -/
theorem frameCoverage : Obligations.FrameCoverage := by
  unfold Obligations.FrameCoverage
  intro c x y hw hh hx hy
  have hcol : x / 16 < c.frameW / 16 := by omega
  have hrow : y / 16 < c.frameH / 16 := by omega
  refine ⟨coveringMb c x y, ⟨rowMajor_lt hcol hrow, (inTile_iff_eq_coveringMb hcol).2 rfl⟩, ?_⟩
  rintro m ⟨-, hin⟩
  exact (inTile_iff_eq_coveringMb hcol).1 hin

/-! The tile in the frame (O40). -/

/-- What a frame pixel holds after PlaceTile: its tile colour inside the macroblock, what it held outside (R260). -/
theorem placeTile_getD (c : Config) (m : Nat) (tile : List Half) {frame : List Half} {x y : Nat} (hx : x < c.frameW)
    (hin : y * c.frameW + x < frame.length) :
    (placeTile c m tile frame).getD (y * c.frameW + x) 0 =
      if inTile c m x y then tile.getD (16 * (y - tileY c m) + (x - tileX c m)) 0
      else frame.getD (y * c.frameW + x) 0 := by
  have hcol : (y * c.frameW + x) % c.frameW = x := Nat.mul_add_mod_of_lt hx
  rw [List.getD_eq_getElem _ _ (by rwa [placeTile_length]), List.getD_eq_getElem frame _ hin]
  simp only [placeTile, List.getElem_mapIdx, rowMajor_div y hx, hcol]

/-- The tile of a macroblock of the frame lies inside the frame. -/
theorem tile_inside_frame {c : Config} {m x y : Nat} (hm : m < c.mbCount) (hx : x < 16) (hy : y < 16) :
    tileX c m + x < c.frameW ∧ tileY c m + y < c.frameH := by
  have hrow : m / (c.frameW / 16) < c.frameH / 16 := Nat.div_lt_of_lt_mul hm
  have hcol : m % (c.frameW / 16) < c.frameW / 16 := Nat.mod_lt _ (Nat.pos_of_lt_mul_right hm)
  rw [tileX, tileY]
  omega

/-- Settles O40: the pixel's row and column are inside the macroblock's tile, or they are not. -/
theorem tilePlacement : Obligations.TilePlacement := by
  unfold Obligations.TilePlacement
  intro c m tile frame _ _ _ hm _ hlen
  refine ⟨placeTile_length c m tile frame, fun x y hx hy => ?inside, fun x y hx hy hout => ?outside⟩
  case inside =>
    obtain ⟨hcol, hrow⟩ := tile_inside_frame hm hx hy
    have hcovered : inTile c m (tileX c m + x) (tileY c m + y) = true := by
      rw [inTile, decide_eq_true_iff]
      omega
    have hplaced := placeTile_getD c m tile (frame := frame) hcol (hlen ▸ rowMajor_lt hcol hrow)
    rwa [if_pos hcovered, Nat.add_sub_cancel_left, Nat.add_sub_cancel_left] at hplaced
  case outside =>
    have huncovered : ¬ inTile c m x y = true := by rwa [inTile, decide_eq_true_iff]
    rw [placeTile_getD c m tile hx (hlen ▸ rowMajor_lt hx hy), if_neg huncovered]

/-! The two images of a raw chunk (O16). -/

theorem regionA_eq_half (m : Memory) (base x y : Nat) :
    regionA m base x y = half m (base + 2 * (256 * y + x)) := (half_eq m _).symm

theorem regionB_eq_half (m : Memory) (base x y : Nat) :
    regionB m base x y = half m (base + 131072 + 2 * (128 * y + x)) := (half_eq m _).symm

/-- The pixel of the verbatim image at a place is the chunk's pixel at that place (R263). -/
theorem rawImage_verbatim (m : Memory) (base : Nat) {i : Nat} (h : i < 81920) :
    (rawImage m base false).getD i 0 = half m (base + 2 * i) := by
  rw [rawImage, getD_map_range _ _ h, if_neg Bool.false_ne_true, verbatimPixel, Nat.div_add_mod, half_eq]

/-- The pixel of the reorganised image in a column and row (R262). -/
theorem rawImage_reorg (m : Memory) (base : Nat) {x y : Nat} (hx : x < 320) (hy : y < 256) :
    (rawImage m base true).getD (320 * y + x) 0 = reorgPixel m base x y := by
  have hrow : (320 * y + x) / 320 = y := by omega
  have hcol : (320 * y + x) % 320 = x := by omega
  rw [rawImage, getD_map_range _ _ (by omega), if_pos rfl, hrow, hcol]

theorem exec_rawChunk {s : State} (hroom : s.cur + 163840 ≤ s.inLen.toNat) :
    exec .rawChunk s = .next (handOverImage s) := if_pos hroom

/-- What handing over a raw chunk's image changes, and nothing else (R280, R286). -/
theorem handOverImage_eq (s : State) : handOverImage s = { s with
    segCount := satInc s.segCount
    outCount := satInc s.outCount
    frame := rawImage s.mem s.cur s.ctrl.reorg
    pending := some (.image s.outCount (rawImage s.mem s.cur s.ctrl.reorg) (rawWidth s.ctrl.reorg)
      (rawHeight s.ctrl.reorg) 16)
    status := { s.status with hold := true }
    stage := .advance } := by
  simp only [handOverImage, emit, countSegment]

/-- Settles O16: both images are `rawImage`, read pixel by pixel. -/
theorem rawChunkImages : Obligations.RawChunkImages := by
  unfold Obligations.RawChunkImages
  intro s hroom
  refine ⟨rawImage s.mem s.cur s.ctrl.reorg, rawWidth s.ctrl.reorg, rawHeight s.ctrl.reorg, ?next, rawImage_length _ _ _,
    fun hreorg => ?reorg, fun hreorg => ?verbatim⟩
  case next => rw [exec_rawChunk hroom, handOverImage_eq]
  case reorg =>
    rw [hreorg]
    refine ⟨rfl, rfl, fun x y hx hy => ?_⟩
    simp only [rawImage_reorg s.mem s.cur hx hy, reorgPixel, regionA_eq_half, regionB_eq_half]
  case verbatim =>
    rw [hreorg]
    exact ⟨rfl, rfl, fun x y hx hy => rawImage_verbatim s.mem s.cur (by omega)⟩

/-! The bijection between the places of the two images (O42). -/

/-- π⁻¹ of R265: the column and row in the reorganised image of the verbatim image's pixel `j`. A row of region B is 128
pixels, the first 64 of them in the strip's upper half. -/
def reorgPlace (j : Nat) : Nat × Nat :=
  if j < 65536 then (j % 256, j / 256)
  else if (j - 65536) % 128 < 64 then (256 + (j - 65536) % 128, (j - 65536) / 128)
  else (192 + (j - 65536) % 128, 128 + (j - 65536) / 128)

theorem reorgIndex_lt {x y : Nat} (hx : x < 320) (hy : y < 256) : reorgIndex x y < 81920 := by
  unfold reorgIndex
  split
  · omega
  · split <;> omega

theorem reorgPlace_lt {j : Nat} (h : j < 81920) : (reorgPlace j).1 < 320 ∧ (reorgPlace j).2 < 256 := by
  unfold reorgPlace
  split
  · omega
  · split <;> omega

theorem reorgIndex_reorgPlace {j : Nat} (h : j < 81920) : reorgIndex (reorgPlace j).1 (reorgPlace j).2 = j := by
  unfold reorgPlace
  split
  case isTrue hA => rw [reorgIndex, if_pos (by omega)]; omega
  case isFalse hB =>
    split
    case isTrue hleft => rw [reorgIndex, if_neg (by omega), if_pos (by omega)]; omega
    case isFalse hright => rw [reorgIndex, if_neg (by omega), if_neg (by omega)]; omega

theorem reorgPlace_reorgIndex {x y : Nat} (hx : x < 320) (hy : y < 256) : reorgPlace (reorgIndex x y) = (x, y) := by
  unfold reorgIndex
  split
  case isTrue hA => rw [reorgPlace, if_pos (by omega), Prod.mk.injEq]; omega
  case isFalse hB =>
    split
    case isTrue htop => rw [reorgPlace, if_neg (by omega), if_pos (by omega), Prod.mk.injEq]; omega
    case isFalse hbottom => rw [reorgPlace, if_neg (by omega), if_neg (by omega), Prod.mk.injEq]; omega

/-- The reorganised pixel (x, y) is the chunk's pixel at π(x, y): region B starts 65536 pixels after region A (R264). -/
theorem reorgPixel_eq (m : Memory) (base x y : Nat) :
    reorgPixel m base x y = half m (base + 2 * reorgIndex x y) := by
  unfold reorgPixel reorgIndex
  split
  case isTrue hA => exact regionA_eq_half m base x y
  case isFalse hB =>
    split
    case isTrue htop => exact (regionB_eq_half m base _ _).trans (congrArg (half m) (by omega))
    case isFalse hbottom => exact (regionB_eq_half m base _ _).trans (congrArg (half m) (by omega))

/-- Settles O42: `reorgPlace` undoes `reorgIndex` on either side, and both pixels are the chunk's at that index. -/
theorem reorgPermutation : Obligations.ReorgPermutation := by
  unfold Obligations.ReorgPermutation
  refine ⟨fun x y hx hy => reorgIndex_lt hx hy, fun j hj => ?bijection, fun m base x y hx hy => ?pixels⟩
  case bijection =>
    obtain ⟨hx, hy⟩ := reorgPlace_lt hj
    refine ⟨reorgPlace j, ⟨hx, hy, reorgIndex_reorgPlace hj⟩, ?_⟩
    rintro ⟨x, y⟩ ⟨hx', hy', rfl⟩
    exact (reorgPlace_reorgIndex hx' hy').symm
  case pixels =>
    rw [rawImage_reorg m base hx hy, reorgPixel_eq, rawImage_verbatim m base (reorgIndex_lt hx hy)]

end Sys2Proof.Machine
end

section
/-! PROOFS. The framers: a run from its START (O19 StartCommand) and first checks (O22 RunStartChecks) to its end (O23
RunEndRecord); the tiled container (O15 NativeTextureChunk, O24 TiledChunkStep, O25 StepsAfterAccept); a segment from its
header (O14 SegmentHeaderItem) over its frame (O32 FrameEmitStep) to the texture probe (O18 TexturePatternRecord, O33
TextureProbeStep); and the output port (O49 AcceptHandsOver, O53 EngineRestsWhenNotEnabled). -/

namespace Sys2Proof.Machine

/-! The texture record after a segment (O18). -/

theorem probeOffset_eq (s : State) : probeOffset s = s.cur + 8 + 2 * ((s.cursor.bitpos + 15) / 16) := rfl

theorem segmentEnd_eq (s : State) : segmentEnd s = min (s.cur + 65536) s.inLen.toNat := rfl

theorem exec_texPrefix (p : Half) (s : State) :
    exec (.texPrefix p) s = .next (nextSegment (textureRecord (probeOffset s) s)) := rfl

theorem textureRecord_none {p : Nat} {s : State}
    (h : texRecordAt s.cfg (s.mem.bytes p (segmentEnd s - p)) p = none) : textureRecord p s = s := by
  rw [textureRecord, h]

/-- A record goes to the output port when it lies in the segment after P, and is an overrun otherwise (R300, R306). -/
theorem textureRecord_some {p start len : Nat} {s : State}
    (h : texRecordAt s.cfg (s.mem.bytes p (segmentEnd s - p)) p = some (start, len)) :
    textureRecord p s =
      if len = 0 then s
      else if p ≤ start ∧ start + len ≤ segmentEnd s then emit (fun i => .nativeTexture i (s.mem.bytes start len)) s
      else { s with overrunCount := satInc s.overrunCount } := by
  rw [textureRecord, h]

/-- Settles O18: the four cases of TextureRecord, each with NextSegment after it. -/
theorem texturePatternRecord : Obligations.TexturePatternRecord := by
  unfold Obligations.TexturePatternRecord
  intro p s b hb
  rw [← probeOffset_eq, ← segmentEnd_eq, bytesAt_iff] at hb
  rw [← probeOffset_eq, ← segmentEnd_eq, exec_texPrefix, hb]
  refine ⟨fun hnone => ?none, fun start len hsome => ?record⟩
  case none => rw [textureRecord_none hnone]; rfl
  case record =>
    rw [textureRecord_some hsome]
    refine ⟨fun hempty => ?empty, fun hlen hstart hend => ?inside, fun hlen hout => ?outside⟩
    case empty => rw [if_pos hempty]; rfl
    case inside =>
      refine ⟨s.mem.bytes start len, bytesAt_iff.2 rfl, ?_⟩
      rw [if_neg (by omega), if_pos ⟨hstart, hend⟩]
      rfl
    case outside => rw [if_neg (by omega), if_neg (by omega)]; rfl

/-! The end of a run and its start (O23, O19, O22). -/

theorem isFatal_iff (r : EndReason) : r.isFatal = true ↔ r = .ioError ∨ r = .allocFailure := by
  cases r <;> decide

/-- Settles O23: `fatal` is the reason's own isFatal, on which runEnd turns. -/
theorem runEndRecord : Obligations.RunEndRecord := by
  unfold Obligations.RunEndRecord
  intro reason s fatal hfatal
  obtain rfl : fatal = reason.isFatal := Bool.eq_iff_iff.2 (hfatal.trans (isFatal_iff reason).symm)
  simp only [runEnd, endedStatus, endPosition, Bool.decide_and, Bool.decide_eq_false]

/-- Settles O19: START is startRun while no run is in progress. -/
theorem startCommand : Obligations.StartCommand := by
  unfold Obligations.StartCommand
  intro mode reorg srcErr s hb
  rw [exec_start, hb]
  rfl

theorem startCheck_srcErr {s : State} (he : s.ctrl.srcErr = true) : startCheck s = runEnd .ioError s := if_pos he

theorem startCheck_noRoom {s : State} (he : s.ctrl.srcErr = false) (hn : s.cfg.frameCapacity < rasterNeed s) :
    startCheck s = runEnd .allocFailure s := by
  rw [startCheck, if_neg (by simp [he]), if_pos hn]

theorem startCheck_room {s : State} (he : s.ctrl.srcErr = false) (hn : rasterNeed s ≤ s.cfg.frameCapacity) :
    startCheck s = { s with
      phase := if s.ctrl.mode then .segHdr else .tiled
      stage := .first
      frame := List.replicate (rasterNeed s) 0 } := by
  rw [startCheck, if_neg (by simp [he]), if_neg (Nat.not_lt.2 hn)]

theorem rasterNeed_popHost (s : State) :
    rasterNeed (popHost s) = if s.ctrl.mode = false then 81920 else s.cfg.frameW * s.cfg.frameH := by
  cases hm : s.ctrl.mode <;> simp [rasterNeed, hm]

/-- Settles O22: the checks of startCheck in their order. -/
theorem runStartChecks : Obligations.RunStartChecks := by
  unfold Obligations.RunStartChecks
  intro s need ht hp hneed
  have hfetch : fetchEngine s = .engine .startCheck := by rw [fetchEngine, hp]
  rw [← rasterNeed_popHost] at hneed
  rw [step_engineStep ht hfetch, hneed, runEngineStep, ← popHost_ctrl s, ← popHost_cfg s]
  refine ⟨fun he => ?ioError, fun he hn => ?allocFailure, fun he hn => ?room⟩
  case ioError => rw [startCheck_srcErr he]
  case allocFailure => rw [startCheck_noRoom he hn]
  case room =>
    rw [startCheck_room he hn]
    cases (popHost s).ctrl.mode <;> rfl

/-! The chunks of the tiled container (O15, O24, O25). -/

/-- Settles O15: the bytes are the rest of the input. -/
theorem nativeTextureChunk : Obligations.NativeTextureChunk := by
  unfold Obligations.NativeTextureChunk
  exact fun magic typ s => ⟨restOfInput s, bytesAt_iff.2 rfl, rfl⟩

theorem memRead_four_lt (m : Memory) (a : Nat) : m.memRead a 4 < 2 ^ 32 := by
  have h0 := (m.read a).isLt
  have h1 := (m.read (a + 1)).isLt
  have h2 := (m.read (a + 2)).isLt
  have h3 := (m.read (a + 3)).isLt
  rw [memRead_four]
  omega

/-- The magic stands at an address when the four bytes there read as its value (R284). -/
theorem ofNat_memRead_four_eq_iff (m : Memory) (a : Nat) (w : Word) :
    BitVec.ofNat 32 (m.memRead a 4) = w ↔ m.memRead a 4 = w.toNat := by
  rw [← BitVec.toNat_inj, BitVec.toNat_ofNat, Nat.mod_eq_of_lt (memRead_four_lt m a)]

/-- A chunk with the magic is a texture of a known type, or unknown (R284). -/
theorem decodeTiled_magic {c : Config} {m : Memory} {a rem : Nat} (h8 : 8 ≤ rem)
    (hm : m.memRead a 4 = c.texMagic.toNat) : decodeTiled c rem (m.bytes a (min 8 rem)) =
      if BitVec.ofNat 32 (m.memRead (a + 4) 4) ∈ c.texTypes then
        .ok (.tiledTex c.texMagic (BitVec.ofNat 32 (m.memRead (a + 4) 4)))
      else .reject .unknownChunk := by
  have hword := (ofNat_memRead_four_eq_iff m a c.texMagic).2 hm
  simp only [decodeTiled, Nat.min_eq_left h8, byteField_bytes m a 8 0 4 (by decide),
    byteField_bytes m a 8 4 4 (by decide), Nat.add_zero, hword, h8, and_self, if_true, List.contains_eq_mem,
    decide_eq_true_eq]

/-- A chunk without the magic is a raw image, when there is room for one, or unknown (R284). -/
theorem decodeTiled_noMagic {c : Config} {m : Memory} {a rem : Nat}
    (h : ¬ (8 ≤ rem ∧ m.memRead a 4 = c.texMagic.toNat)) : decodeTiled c rem (m.bytes a (min 8 rem)) =
      if 163840 ≤ rem then .ok .rawChunk else .reject .unknownChunk := by
  refine if_neg fun ⟨h8, hword⟩ => h ⟨h8, ?_⟩
  rwa [Nat.min_eq_left h8, byteField_bytes m a 8 0 4 (by decide), ofNat_memRead_four_eq_iff] at hword

/-- In TILED with bytes left the engine does what the decoder answers on up to 8 of them (R284, R289). -/
theorem fetchTiled_classify {s : State} (hcur : s.cur < s.inLen.toNat) : fetchTiled s =
    Decoded.fetched .unknownChunk (decodeTiled s.cfg (s.inLen.toNat - s.cur)
      (s.mem.bytes s.cur (min 8 (s.inLen.toNat - s.cur)))) := if_neg (Nat.not_le.2 hcur)

/-- Handing over an unknown chunk does not depend on the host's turn (R288). -/
theorem handOverUnknown_popHost (s : State) : handOverUnknown (popHost s) = { popHost s with
    segCount := satInc s.segCount
    outCount := satInc s.outCount
    pending := some (.rawVerbatim s.outCount (restOfInput s))
    status := { s.status with hold := true }
    stage := .terminal } := by
  simp only [handOverUnknown, emit, countSegment, restOfInput, popHost_segCount, popHost_outCount, popHost_status,
    popHost_mem, popHost_cur, popHost_inLen]

/-- Settles O24: the end of the input first, then the decoder's classification with and without the magic. -/
theorem tiledChunkStep : Obligations.TiledChunkStep := by
  unfold Obligations.TiledChunkStep
  rintro s ht hp hna hnt magic typ hmagic rfl
  have hfetch := fetchEngine_tiled hp hna hnt
  refine ⟨fun hend => ?ended, fun hm htyp => ?texture, fun hm hroom => ?raw, fun hcur hunknown => ?unknown⟩
  case ended => exact step_engineStep ht (hfetch.trans (if_pos hend))
  case texture =>
    obtain ⟨h8, hword⟩ := hmagic.1 hm
    refine step_fetchEngine ht ?_
    rw [hfetch, fetchTiled_classify (by omega), decodeTiled_magic (by omega) hword, if_pos htyp]
    rfl
  case raw =>
    refine step_fetchEngine ht ?_
    rw [hfetch, fetchTiled_classify (by omega), decodeTiled_noMagic fun h => hm (hmagic.2 ⟨by omega, h.2⟩),
      if_pos (by omega)]
    rfl
  case unknown =>
    have hreject : fetchEngine s = .engine .unknownChunk := by
      rw [hfetch, fetchTiled_classify hcur]
      rcases hunknown with ⟨hm, htyp⟩ | ⟨hm, hshort⟩
      · obtain ⟨h8, hword⟩ := hmagic.1 hm
        rw [decodeTiled_magic (by omega) hword, if_neg htyp]
        rfl
      · rw [decodeTiled_noMagic fun h => hm (hmagic.2 ⟨by omega, h.2⟩), if_neg (by omega)]
        rfl
    refine ⟨restOfInput s, bytesAt_iff.2 rfl, ?_⟩
    rw [step_engineStep ht hreject]
    exact congrArg _ (handOverUnknown_popHost s)

/-- Settles O25: each of the three stages names its engine step. -/
theorem stepsAfterAccept : Obligations.StepsAfterAccept := by
  unfold Obligations.StepsAfterAccept
  refine fun s ht => ⟨fun hp hs => ?advance, fun hp hs => ?terminal, fun hp hs => ?toProbe⟩
  case advance =>
    have hfetch : fetchEngine s = .engine .advance := by rw [fetchEngine, hp, hs]
    rw [step_engineStep ht hfetch, ← popHost_cur s]
    rfl
  case terminal =>
    have hfetch : fetchEngine s = .engine .terminal := by rw [fetchEngine, hp, hs]
    exact step_engineStep ht hfetch
  case toProbe =>
    have hfetch : fetchEngine s = .engine .toProbe := by rw [fetchEngine_segDecode hp, fetchDecode, hs]
    exact step_engineStep ht hfetch

/-! A segment: its header, its frame and its probe (O14, O32, O33). -/

/-- Settles O14: loadHeader, with the membership in FLAT_VERSIONS decided. -/
theorem segmentHeaderItem : Obligations.SegmentHeaderItem := by
  unfold Obligations.SegmentHeaderItem
  intro length typeId quant version s
  rw [← List.contains_eq_mem]
  rfl

/-- Settles O32: the engine step of this stage does not depend on the host's turn. -/
theorem frameEmitStep : Obligations.FrameEmitStep := by
  unfold Obligations.FrameEmitStep
  intro s ht hp hs
  have hfetch : fetchEngine s = .engine .emitFrame := by rw [fetchEngine_segDecode hp, fetchDecode, hs]
  rw [step_engineStep ht hfetch, runEngineStep]
  simp only [emitFrameStep, emit, popHost_outCount, popHost_frame, popHost_cfg, popHost_status]

/-- The probe recognises a pattern when both its bytes are there and their value is listed (R118, R298). -/
theorem decodeProbe_bytes (c : Config) (m : Memory) (a n : Nat) : decodeProbe c (m.bytes a (min 2 n)) =
    if 2 ≤ n ∧ half m a ∈ c.texPrefixes then .ok (.texPrefix (half m a)) else .reject .noTexture := by
  rcases Nat.lt_or_ge n 2 with hshort | h2
  · rw [if_neg (by omega)]
    exact if_neg fun h => absurd h.1 (by simp; omega)
  · simp only [decodeProbe, Nat.min_eq_left h2, byteField_bytes m a 2 0 2 (by decide), Nat.add_zero, ← half_eq,
      bytes_length, le_refl, true_and, h2, List.contains_eq_mem, decide_eq_true_eq]

/-- In SEG_PROBE the step does what the decoder answers on up to 2 bytes at P (R298). -/
theorem fetchEngine_segProbe {s : State} (hp : s.phase = .segProbe) : fetchEngine s = Decoded.fetched .noTexture
    (decodeProbe s.cfg (s.mem.bytes (probeOffset s) (min 2 (segmentEnd s - probeOffset s)))) := by
  rw [fetchEngine, hp]
  rfl

/-- Settles O33: the decoder recognises a pattern at P, or the step is NextSegment. -/
theorem textureProbeStep : Obligations.TextureProbeStep := by
  unfold Obligations.TextureProbeStep
  intro s p e ht hp hoffset hend
  obtain rfl : p = probeOffset s := hoffset
  obtain rfl : e = segmentEnd s := hend
  have hfetch := fetchEngine_segProbe hp
  rw [decodeProbe_bytes] at hfetch
  refine ⟨fun hroom hlisted => ?pattern, fun hnone => ?noPattern⟩
  case pattern =>
    rw [if_pos ⟨by omega, hlisted⟩] at hfetch
    exact step_fetchEngine ht hfetch
  case noPattern =>
    rw [if_neg fun h => hnone.elim (by omega) (absurd h.2)] at hfetch
    rw [step_engineStep ht hfetch, ← popHost_cur s]
    rfl

/-! The output port (O49, O53). -/

/-- An Accept waits only while the run goes on with nothing to accept (R310, R311). -/
theorem turn_accept {s : State} {rest : List HostAction} (hh : s.host = .accept :: rest) :
    turn s = if s.status.busy && !s.status.hold then .engine else .host .accept := by
  rw [turn, hh]

/-- An Accept that waits stays on the host's list. -/
theorem popHost_accept {s : State} {rest : List HostAction} (hh : s.host = .accept :: rest) :
    popHost s = if s.status.busy && !s.status.hold then s else { s with host := rest } := by
  simp only [popHost, hh, List.tail_cons]

/-- An Accept that does not wait is taken while an artifact is pending, and refused otherwise (R311). -/
theorem step_accept {s : State} {rest : List HostAction} (hh : s.host = .accept :: rest)
    (hw : (s.status.busy && !s.status.hold) = false) :
    step s = if s.status.hold then .next (acceptArtifact { s with host := rest }) else .refused .acceptNotEnabled := by
  have hfetch : fetch s = .host .accept := by
    rw [fetch, turn_accept hh, hw]
    rfl
  rw [step, hfetch, popHost_accept hh, hw]
  rfl

/-- Settles O49: with HOLD = 1 or BUSY = 0 the Accept does not wait. -/
theorem acceptHandsOver : Obligations.AcceptHandsOver := by
  unfold Obligations.AcceptHandsOver
  refine fun s rest hh => ⟨fun hhold => ?taken, fun hhold hbusy => ?waits, fun hhold hidle => ?refused⟩
  case taken =>
    rw [step_accept hh (by simp [hhold]), if_pos hhold]
    rfl
  case waits =>
    have hw : (s.status.busy && !s.status.hold) = true := by simp [hhold, hbusy]
    exact ⟨⟨by rw [turn_accept hh, if_pos hw], hbusy, hhold⟩, by rw [popHost_accept hh, if_pos hw]⟩
  case refused => rw [step_accept hh (by simp [hidle]), if_neg (by simp [hhold])]

/-- Settles O53: the engine has the turn, and Step is not enabled. -/
theorem engineRestsWhenNotEnabled : Obligations.EngineRestsWhenNotEnabled := by
  unfold Obligations.EngineRestsWhenNotEnabled
  intro s hh hrest
  have hturn : turn s = .engine := by rw [turn, hh]
  have hdisabled : ¬ (s.status.busy && !s.status.hold) = true := by
    rcases hrest with hhold | hidle
    · simp [hhold]
    · simp [hidle]
  have hfetch : fetch s = .idle := by
    rw [fetch, hturn]
    exact if_neg hdisabled
  rw [step, hfetch, popHost_nil hh]

end Sys2Proof.Machine
end

section
/-! PROOFS. The reset input (O51 ResetInputClearsTheRun) and what holds of the reset state: each invariant of this file
starts there (O58 ResetMeetsTheInvariants). -/

namespace Sys2Proof.Machine

/-! The reset input (R370, R371). -/

/-- The reset input has the turn whatever the machine is doing: unlike an Accept it never waits for the run. -/
theorem step_resetInput {s : State} {rest : List HostAction} (hh : s.host = .reset :: rest) :
    step s = .next (resetState { s with host := rest }) := by
  have hfetch : fetch s = .host .reset := by
    rw [fetch, turn_cons hh (by simp) (by simp)]
  rw [step, hfetch, popHost_cons hh (by simp)]
  rfl

/-- Settles O51: resetState of the machine with the input taken off the host's list. -/
theorem resetInputClearsTheRun : Obligations.ResetInputClearsTheRun := by
  unfold Obligations.ResetInputClearsTheRun
  exact fun s rest hh => step_resetInput hh

/-! The reset state: PHASE is IDLE, so nothing is asked of a cursor, of MB or of FRAME (R371). -/

theorem reset_mem_wf : State.reset.mem.wf = true := rfl

theorem not_cursorLive_reset : ¬ CursorLive State.reset :=
  not_cursorLive (show Phase.idle ≠ .segDecode by decide) (show Phase.idle ≠ .segProbe by decide)

theorem rasterOk_reset : RasterOk State.reset := rasterOk_of_noFramer (.inl rfl)

theorem buffersOk_reset : BuffersOk State.reset := buffersOk_iff.2 ⟨blockOk_reset, rasterOk_reset⟩

/-- Settles O58: one fact of the reset state for each invariant. -/
theorem resetMeetsTheInvariants : Obligations.ResetMeetsTheInvariants := by
  unfold Obligations.ResetMeetsTheInvariants
  exact ⟨reset_mem_wf, statusOk_reset, not_cursorLive_reset, buffersOk_reset⟩

end Sys2Proof.Machine
end
